-- ==== Sys2Proof/Word.lean ====
section
/-! DEFINITION. The word types of the Virtual CT Board core: bytes, halfwords and 32-bit words (spec rules R7, R8),
and the register-number fields of its encodings (R70). -/

namespace Sys2Proof

/-- A Byte: 8 bits (R8). -/
abbrev Byte := BitVec 8

/-- A Halfword: 16 bits, the instruction unit (R7, R8). -/
abbrev Halfword := BitVec 16

/-- A Word: 32 bits, the width of registers, addresses and the ALU (R7, R8). Its arithmetic is modulo 2^32 (R15). -/
abbrev Word := BitVec 32

/-- A 3-bit register field: R0 to R7, the low registers (R22, R70). -/
abbrev LowReg := BitVec 3

/-- A register number, 0 to 15 (R20): a 4-bit register field (R70). -/
abbrev RegNum := BitVec 4

end Sys2Proof
end

