-- ==== Sys2Proof/Syntax.lean ====
section
/-! DEFINITION. The instruction catalog as syntax: one constructor per row of spec/opcode_table.json (R73), in the
registration order, each with the fields of its layout (R70, R71). The rule that gives each its meaning is named beside it. -/

namespace Sys2Proof

/-- The fifteen conditions of the conditional branches (R240). -/
inductive Cond where
  | eq | ne | cs | cc | mi | pl | vs | vc | hi | ls | ge | lt | gt | le | al
  deriving DecidableEq, Repr

/-- The instructions (R73). A `LowReg` is a 3-bit register field, a `RegNum` a 4-bit one (`D:ddd`, `N:nnn` or `mmmm`, R70);
an immediate is the raw field, scaled and extended by the meaning (R72). -/
inductive Instr where
  /-- `MOVS Rd, Rm`, layout `0000000000mmmddd` (R167). -/
  | movsReg (rd : LowReg) (rm : LowReg)
  /-- `LSLS Rd, Rm, #imm5`, layout `00000iiiiimmmddd` (R184). -/
  | lslsImm (rd : LowReg) (rm : LowReg) (imm5 : BitVec 5)
  /-- `LSRS Rd, Rm, #imm`, layout `00001iiiiimmmddd` (R185). -/
  | lsrsImm (rd : LowReg) (rm : LowReg) (imm5 : BitVec 5)
  /-- `ASRS Rd, Rm, #imm`, layout `00010iiiiimmmddd` (R186). -/
  | asrsImm (rd : LowReg) (rm : LowReg) (imm5 : BitVec 5)
  /-- `ADDS Rd, Rn, Rm`, layout `0001100mmmnnnddd` (R127). -/
  | addsReg (rd : LowReg) (rn : LowReg) (rm : LowReg)
  /-- `SUBS Rd, Rn, Rm`, layout `0001101mmmnnnddd` (R128). -/
  | subsReg (rd : LowReg) (rn : LowReg) (rm : LowReg)
  /-- `ADDS Rd, Rn, #imm3`, layout `0001110iiinnnddd` (R129). -/
  | addsImm3 (rd : LowReg) (rn : LowReg) (imm3 : BitVec 3)
  /-- `SUBS Rd, Rn, #imm3`, layout `0001111iiinnnddd` (R130). -/
  | subsImm3 (rd : LowReg) (rn : LowReg) (imm3 : BitVec 3)
  /-- `MOVS Rd, #imm8`, layout `00100dddiiiiiiii` (R166). -/
  | movsImm8 (rd : LowReg) (imm8 : BitVec 8)
  /-- `CMP Rn, #imm8`, layout `00101nnniiiiiiii` (R133). -/
  | cmpImm8 (rn : LowReg) (imm8 : BitVec 8)
  /-- `ADDS Rdn, #imm8`, layout `00110dddiiiiiiii` (R131). -/
  | addsImm8 (rd : LowReg) (imm8 : BitVec 8)
  /-- `SUBS Rdn, #imm8`, layout `00111dddiiiiiiii` (R132). -/
  | subsImm8 (rd : LowReg) (imm8 : BitVec 8)
  /-- `ANDS Rdn, Rm`, layout `0100000000mmmddd` (R160). -/
  | ands (rdn : LowReg) (rm : LowReg)
  /-- `EORS Rdn, Rm`, layout `0100000001mmmddd` (R161). -/
  | eors (rdn : LowReg) (rm : LowReg)
  /-- `LSLS Rdn, Rm`, layout `0100000010mmmddd` (R187). -/
  | lslsReg (rdn : LowReg) (rm : LowReg)
  /-- `LSRS Rdn, Rm`, layout `0100000011mmmddd` (R188). -/
  | lsrsReg (rdn : LowReg) (rm : LowReg)
  /-- `ASRS Rdn, Rm`, layout `0100000100mmmddd` (R189). -/
  | asrsReg (rdn : LowReg) (rm : LowReg)
  /-- `ADCS Rdn, Rm`, layout `0100000101mmmddd` (R136). -/
  | adcs (rdn : LowReg) (rm : LowReg)
  /-- `SBCS Rdn, Rm`, layout `0100000110mmmddd` (R137). -/
  | sbcs (rdn : LowReg) (rm : LowReg)
  /-- `RORS Rdn, Rm`, layout `0100000111mmmddd` (R190). -/
  | rors (rdn : LowReg) (rm : LowReg)
  /-- `TST Rn, Rm`, layout `0100001000mmmnnn` (R165). -/
  | tst (rn : LowReg) (rm : LowReg)
  /-- `RSBS Rd, Rn, #0`, layout `0100001001nnnddd` (R138). -/
  | rsbs (rd : LowReg) (rn : LowReg)
  /-- `CMP Rn, Rm (both low)`, layout `0100001010mmmnnn` (R134). -/
  | cmpReg (rn : LowReg) (rm : LowReg)
  /-- `CMN Rn, Rm`, layout `0100001011mmmnnn` (R135). -/
  | cmn (rn : LowReg) (rm : LowReg)
  /-- `ORRS Rdn, Rm`, layout `0100001100mmmddd` (R162). -/
  | orrs (rdn : LowReg) (rm : LowReg)
  /-- `MULS Rdm, Rn, Rdm`, layout `0100001101nnnddd` (R139). -/
  | muls (rdm : LowReg) (rn : LowReg)
  /-- `BICS Rdn, Rm`, layout `0100001110mmmddd` (R163). -/
  | bics (rdn : LowReg) (rm : LowReg)
  /-- `MVNS Rd, Rm`, layout `0100001111mmmddd` (R164). -/
  | mvns (rd : LowReg) (rm : LowReg)
  /-- `ADD Rdn, Rm`, layout `01000100Dmmmmddd` (R140). -/
  | addHi (rdn : RegNum) (rm : RegNum)
  /-- `CMP Rn, Rm (one high)`, layout `01000101Nmmmmnnn` (R141). -/
  | cmpHi (rn : RegNum) (rm : RegNum)
  /-- `MOV Rd, Rm`, layout `01000110Dmmmmddd` (R168). -/
  | movHi (rd : RegNum) (rm : RegNum)
  /-- `BX Rm`, layout `010001110mmmm000` (R247). -/
  | bx (rm : RegNum)
  /-- `BLX Rm`, layout `010001111mmmm000` (R248). -/
  | blx (rm : RegNum)
  /-- `LDR Rt, label / LDR Rt, =v`, layout `01001tttiiiiiiii` (R217). -/
  | ldrLit (rt : LowReg) (imm8 : BitVec 8)
  /-- `STR Rt, [Rn, Rm]`, layout `0101000mmmnnnttt` (R208). -/
  | strReg (rt : LowReg) (rn : LowReg) (rm : LowReg)
  /-- `STRH Rt, [Rn, Rm]`, layout `0101001mmmnnnttt` (R212). -/
  | strhReg (rt : LowReg) (rn : LowReg) (rm : LowReg)
  /-- `STRB Rt, [Rn, Rm]`, layout `0101010mmmnnnttt` (R210). -/
  | strbReg (rt : LowReg) (rn : LowReg) (rm : LowReg)
  /-- `LDRSB Rt, [Rn, Rm]`, layout `0101011mmmnnnttt` (R213). -/
  | ldrsbReg (rt : LowReg) (rn : LowReg) (rm : LowReg)
  /-- `LDR Rt, [Rn, Rm]`, layout `0101100mmmnnnttt` (R207). -/
  | ldrReg (rt : LowReg) (rn : LowReg) (rm : LowReg)
  /-- `LDRH Rt, [Rn, Rm]`, layout `0101101mmmnnnttt` (R211). -/
  | ldrhReg (rt : LowReg) (rn : LowReg) (rm : LowReg)
  /-- `LDRB Rt, [Rn, Rm]`, layout `0101110mmmnnnttt` (R209). -/
  | ldrbReg (rt : LowReg) (rn : LowReg) (rm : LowReg)
  /-- `LDRSH Rt, [Rn, Rm]`, layout `0101111mmmnnnttt` (R214). -/
  | ldrshReg (rt : LowReg) (rn : LowReg) (rm : LowReg)
  /-- `STR Rt, [Rn, #imm]`, layout `01100iiiiinnnttt` (R202). -/
  | strImm (rt : LowReg) (rn : LowReg) (imm5 : BitVec 5)
  /-- `LDR Rt, [Rn, #imm]`, layout `01101iiiiinnnttt` (R201). -/
  | ldrImm (rt : LowReg) (rn : LowReg) (imm5 : BitVec 5)
  /-- `STRB Rt, [Rn, #imm]`, layout `01110iiiiinnnttt` (R204). -/
  | strbImm (rt : LowReg) (rn : LowReg) (imm5 : BitVec 5)
  /-- `LDRB Rt, [Rn, #imm]`, layout `01111iiiiinnnttt` (R203). -/
  | ldrbImm (rt : LowReg) (rn : LowReg) (imm5 : BitVec 5)
  /-- `STRH Rt, [Rn, #imm]`, layout `10000iiiiinnnttt` (R206). -/
  | strhImm (rt : LowReg) (rn : LowReg) (imm5 : BitVec 5)
  /-- `LDRH Rt, [Rn, #imm]`, layout `10001iiiiinnnttt` (R205). -/
  | ldrhImm (rt : LowReg) (rn : LowReg) (imm5 : BitVec 5)
  /-- `STR Rt, [SP, #imm]`, layout `10010tttiiiiiiii` (R216). -/
  | strSp (rt : LowReg) (imm8 : BitVec 8)
  /-- `LDR Rt, [SP, #imm]`, layout `10011tttiiiiiiii` (R215). -/
  | ldrSp (rt : LowReg) (imm8 : BitVec 8)
  /-- `ADR Rd, label`, layout `10100dddiiiiiiii` (R142). -/
  | adr (rd : LowReg) (imm8 : BitVec 8)
  /-- `ADD Rd, SP, #imm`, layout `10101dddiiiiiiii` (R143). -/
  | addRdSp (rd : LowReg) (imm8 : BitVec 8)
  /-- `ADD SP, SP, #imm`, layout `101100000iiiiiii` (R144). -/
  | addSpImm (imm7 : BitVec 7)
  /-- `SUB SP, SP, #imm`, layout `101100001iiiiiii` (R145). -/
  | subSpImm (imm7 : BitVec 7)
  /-- `PUSH list`, layout `1011010Mrrrrrrrr` (R231). -/
  | push (lr : Bool) (list : BitVec 8)
  /-- `POP list`, layout `1011110Prrrrrrrr` (R232). -/
  | pop (pc : Bool) (list : BitVec 8)
  /-- `BEQ label`, layout `11010000iiiiiiii` (R242). -/
  | beq (imm8 : BitVec 8)
  /-- `BNE label`, layout `11010001iiiiiiii` (R242). -/
  | bne (imm8 : BitVec 8)
  /-- `BCS label / BHS label`, layout `11010010iiiiiiii` (R242). -/
  | bcs (imm8 : BitVec 8)
  /-- `BCC label / BLO label`, layout `11010011iiiiiiii` (R242). -/
  | bcc (imm8 : BitVec 8)
  /-- `BMI label`, layout `11010100iiiiiiii` (R242). -/
  | bmi (imm8 : BitVec 8)
  /-- `BPL label`, layout `11010101iiiiiiii` (R242). -/
  | bpl (imm8 : BitVec 8)
  /-- `BVS label`, layout `11010110iiiiiiii` (R242). -/
  | bvs (imm8 : BitVec 8)
  /-- `BVC label`, layout `11010111iiiiiiii` (R242). -/
  | bvc (imm8 : BitVec 8)
  /-- `BHI label`, layout `11011000iiiiiiii` (R242). -/
  | bhi (imm8 : BitVec 8)
  /-- `BLS label`, layout `11011001iiiiiiii` (R242). -/
  | bls (imm8 : BitVec 8)
  /-- `BGE label`, layout `11011010iiiiiiii` (R242). -/
  | bge (imm8 : BitVec 8)
  /-- `BLT label`, layout `11011011iiiiiiii` (R242). -/
  | blt (imm8 : BitVec 8)
  /-- `BGT label`, layout `11011100iiiiiiii` (R242). -/
  | bgt (imm8 : BitVec 8)
  /-- `BLE label`, layout `11011101iiiiiiii` (R242). -/
  | ble (imm8 : BitVec 8)
  /-- `BAL label`, layout `11011110iiiiiiii` (R242). -/
  | bal (imm8 : BitVec 8)
  /-- `B label`, layout `11100iiiiiiiiiii` (R243). -/
  | b (imm11 : BitVec 11)
  /-- `BL label`, layout `11110Siiiiiiiiii + 11111jjjjjjjjjjj` (R246). -/
  | bl (sign : BitVec 1) (imm10 : BitVec 10) (imm11 : BitVec 11)
  deriving DecidableEq, Repr

end Sys2Proof
end

