-- ==== Sys2Proof/WellFormed.lean ====
section
/-! DEFINITION. Which instruction terms are well formed. The operand fields have the widths of the encoding by their types,
so two checks remain: the one that the decode order makes (R74), and those of the encoder (R86, R141, R230). -/

namespace Sys2Proof

/-- The terms that decoding yields. Every word of `LSLS_imm` with `imm5 = 0` is also a word of row 1, `MOVS_reg`, which is
tried first (R74, R184): that term is the only one that no word decodes to. -/
def Instr.wf : Instr → Bool
  | .lslsImm _ _ imm5 => imm5 != 0#5
  | _ => true

/-- The terms that the encoder produces from operands (R86, R141, R230): no empty register list, and the high form of CMP
only when one of its registers is high. The decoder accepts more: an empty list executes and faults (R266), and the high
form of CMP with two low registers executes (R141). -/
def Instr.encodable : Instr → Bool
  | .push lr list => lr || list != 0#8
  | .pop pc list => pc || list != 0#8
  | .cmpHi rn rm => rn.getLsbD 3 || rm.getLsbD 3
  | _ => true

end Sys2Proof
end

