-- ==== Sys2Proof/Decode.lean ====
section
/-! DEFINITION. Decoding and encoding (30_encoding.md): the catalog of R73 in registration order, the decoder that takes
the first matching row (R74), the names of the undefined encodings (R75), and the encoder, its inverse (R78, R87). -/

namespace Sys2Proof

/-- An instruction's halfwords: one, or two for BL (R68). -/
inductive Opcode where
  | one (h1 : Halfword)
  | two (h1 h2 : Halfword)
  deriving DecidableEq, Repr

/-- The length in bytes (R68, R105). -/
def Opcode.len : Opcode → Nat
  | .one _ => 2
  | .two _ _ => 4

/-- The bytes of a halfword, the low byte first (R42, R43). -/
def halfwordBytes (h : Halfword) : List Byte := [h.extractLsb' 0 8, h.extractLsb' 8 8]

/-- The bytes of an opcode as memory holds them: the first halfword at the lower address (R43, R68). -/
def Opcode.bytes : Opcode → List Byte
  | .one h1 => halfwordBytes h1
  | .two h1 h2 => halfwordBytes h1 ++ halfwordBytes h2

/-- Whether a first halfword starts a two-halfword instruction: `h1[15:11] = 0b11110` (R69). -/
def startsPair (h1 : Halfword) : Bool := h1.extractLsb' 11 5 == 0b11110#5

/-- The undefined encodings, by the list of R75. -/
inductive Reject where
  /-- `0x4700` to `0x47FF` with bits 2:0 not 000. -/
  | branchExchangeLowBits (h1 : Halfword)
  /-- `0xB100` to `0xB3FF`, `0xB600` to `0xBBFF`, `0xBE00` to `0xBFFF`. -/
  | miscellaneousSpace (h1 : Halfword)
  /-- `0xC000` to `0xCFFF`. -/
  | multipleTransferSpace (h1 : Halfword)
  /-- `0xDF00` to `0xDFFF`: condition 1111. -/
  | conditionSpace (h1 : Halfword)
  /-- `0xE800` to `0xEFFF` and `0xF800` to `0xFFFF` as a first halfword. -/
  | wideSpace (h1 : Halfword)
  /-- A pair whose first halfword starts with 11110 and whose second does not start with 11111. -/
  | pairSecondHalfword (h1 h2 : Halfword)
  /-- No opcode: the bytes end inside the instruction, or a pair was given whose first halfword starts no pair. -/
  | notAnOpcode
  deriving DecidableEq, Repr

/-- The name of an undefined first halfword (R75). -/
def rejectOf (h1 : Halfword) : Reject :=
  if h1.toNat / 256 = 0x47 then .branchExchangeLowBits h1
  else if h1.toNat / 4096 = 0xB then .miscellaneousSpace h1
  else if h1.toNat / 4096 = 0xC then .multipleTransferSpace h1
  else if h1.toNat / 256 = 0xDF then .conditionSpace h1
  else .wideSpace h1

/-- Bits `lo + len - 1` down to `lo` of a halfword. -/
abbrev field (h : Halfword) (lo len : Nat) : BitVec len := h.extractLsb' lo len

/-- A 4-bit register number from its top bit and its low three bits: `D:ddd` or `N:nnn` (R70). -/
abbrev joined (top : BitVec 1) (rest : BitVec 3) : RegNum := (top ++ rest).setWidth 4

/-- The fields of a layout, concatenated from bit 15 down, as a halfword. -/
abbrev pack {n : Nat} (fields : BitVec n) : Halfword := fields.setWidth 16

/-- One row of the catalog (R73): its form, its layout from bit 15 to bit 0, its mask and match values, and the
instruction read from the fields of a matching halfword (R70). -/
structure CatalogRow where
  form : String
  layout : String
  mask : Halfword
  bits : Halfword
  build : Halfword → Instr

/-- `match(value, pattern)` in its mask and match form (R63). -/
def CatalogRow.accepts (r : CatalogRow) (h : Halfword) : Bool := h &&& r.mask == r.bits

/-- Rows 1 to 33 of R73: data processing, high registers, BX and BLX. -/
def catalogDataProcessing : List CatalogRow :=
  [ ⟨"MOVS_reg", "0000000000mmmddd", 0xFFC0#16, 0x0000#16, fun h => .movsReg (field h 0 3) (field h 3 3)⟩,
    ⟨"LSLS_imm", "00000iiiiimmmddd", 0xF800#16, 0x0000#16, fun h => .lslsImm (field h 0 3) (field h 3 3) (field h 6 5)⟩,
    ⟨"LSRS_imm", "00001iiiiimmmddd", 0xF800#16, 0x0800#16, fun h => .lsrsImm (field h 0 3) (field h 3 3) (field h 6 5)⟩,
    ⟨"ASRS_imm", "00010iiiiimmmddd", 0xF800#16, 0x1000#16, fun h => .asrsImm (field h 0 3) (field h 3 3) (field h 6 5)⟩,
    ⟨"ADDS_reg", "0001100mmmnnnddd", 0xFE00#16, 0x1800#16, fun h => .addsReg (field h 0 3) (field h 3 3) (field h 6 3)⟩,
    ⟨"SUBS_reg", "0001101mmmnnnddd", 0xFE00#16, 0x1A00#16, fun h => .subsReg (field h 0 3) (field h 3 3) (field h 6 3)⟩,
    ⟨"ADDS_imm3", "0001110iiinnnddd", 0xFE00#16, 0x1C00#16, fun h => .addsImm3 (field h 0 3) (field h 3 3) (field h 6 3)⟩,
    ⟨"SUBS_imm3", "0001111iiinnnddd", 0xFE00#16, 0x1E00#16, fun h => .subsImm3 (field h 0 3) (field h 3 3) (field h 6 3)⟩,
    ⟨"MOVS_imm8", "00100dddiiiiiiii", 0xF800#16, 0x2000#16, fun h => .movsImm8 (field h 8 3) (field h 0 8)⟩,
    ⟨"CMP_imm8", "00101nnniiiiiiii", 0xF800#16, 0x2800#16, fun h => .cmpImm8 (field h 8 3) (field h 0 8)⟩,
    ⟨"ADDS_imm8", "00110dddiiiiiiii", 0xF800#16, 0x3000#16, fun h => .addsImm8 (field h 8 3) (field h 0 8)⟩,
    ⟨"SUBS_imm8", "00111dddiiiiiiii", 0xF800#16, 0x3800#16, fun h => .subsImm8 (field h 8 3) (field h 0 8)⟩,
    ⟨"ANDS", "0100000000mmmddd", 0xFFC0#16, 0x4000#16, fun h => .ands (field h 0 3) (field h 3 3)⟩,
    ⟨"EORS", "0100000001mmmddd", 0xFFC0#16, 0x4040#16, fun h => .eors (field h 0 3) (field h 3 3)⟩,
    ⟨"LSLS_reg", "0100000010mmmddd", 0xFFC0#16, 0x4080#16, fun h => .lslsReg (field h 0 3) (field h 3 3)⟩,
    ⟨"LSRS_reg", "0100000011mmmddd", 0xFFC0#16, 0x40C0#16, fun h => .lsrsReg (field h 0 3) (field h 3 3)⟩,
    ⟨"ASRS_reg", "0100000100mmmddd", 0xFFC0#16, 0x4100#16, fun h => .asrsReg (field h 0 3) (field h 3 3)⟩,
    ⟨"ADCS", "0100000101mmmddd", 0xFFC0#16, 0x4140#16, fun h => .adcs (field h 0 3) (field h 3 3)⟩,
    ⟨"SBCS", "0100000110mmmddd", 0xFFC0#16, 0x4180#16, fun h => .sbcs (field h 0 3) (field h 3 3)⟩,
    ⟨"RORS", "0100000111mmmddd", 0xFFC0#16, 0x41C0#16, fun h => .rors (field h 0 3) (field h 3 3)⟩,
    ⟨"TST", "0100001000mmmnnn", 0xFFC0#16, 0x4200#16, fun h => .tst (field h 0 3) (field h 3 3)⟩,
    ⟨"RSBS", "0100001001nnnddd", 0xFFC0#16, 0x4240#16, fun h => .rsbs (field h 0 3) (field h 3 3)⟩,
    ⟨"CMP_reg", "0100001010mmmnnn", 0xFFC0#16, 0x4280#16, fun h => .cmpReg (field h 0 3) (field h 3 3)⟩,
    ⟨"CMN", "0100001011mmmnnn", 0xFFC0#16, 0x42C0#16, fun h => .cmn (field h 0 3) (field h 3 3)⟩,
    ⟨"ORRS", "0100001100mmmddd", 0xFFC0#16, 0x4300#16, fun h => .orrs (field h 0 3) (field h 3 3)⟩,
    ⟨"MULS", "0100001101nnnddd", 0xFFC0#16, 0x4340#16, fun h => .muls (field h 0 3) (field h 3 3)⟩,
    ⟨"BICS", "0100001110mmmddd", 0xFFC0#16, 0x4380#16, fun h => .bics (field h 0 3) (field h 3 3)⟩,
    ⟨"MVNS", "0100001111mmmddd", 0xFFC0#16, 0x43C0#16, fun h => .mvns (field h 0 3) (field h 3 3)⟩,
    ⟨"ADD_hi", "01000100Dmmmmddd", 0xFF00#16, 0x4400#16, fun h => .addHi (joined (field h 7 1) (field h 0 3)) (field h 3 4)⟩,
    ⟨"CMP_hi", "01000101Nmmmmnnn", 0xFF00#16, 0x4500#16, fun h => .cmpHi (joined (field h 7 1) (field h 0 3)) (field h 3 4)⟩,
    ⟨"MOV_hi", "01000110Dmmmmddd", 0xFF00#16, 0x4600#16, fun h => .movHi (joined (field h 7 1) (field h 0 3)) (field h 3 4)⟩,
    ⟨"BX", "010001110mmmm000", 0xFF87#16, 0x4700#16, fun h => .bx (field h 3 4)⟩,
    ⟨"BLX", "010001111mmmm000", 0xFF87#16, 0x4780#16, fun h => .blx (field h 3 4)⟩ ]

/-- Rows 34 to 56 of R73: loads, stores, address arithmetic and the stack. -/
def catalogLoadStore : List CatalogRow :=
  [ ⟨"LDR_lit", "01001tttiiiiiiii", 0xF800#16, 0x4800#16, fun h => .ldrLit (field h 8 3) (field h 0 8)⟩,
    ⟨"STR_reg", "0101000mmmnnnttt", 0xFE00#16, 0x5000#16, fun h => .strReg (field h 0 3) (field h 3 3) (field h 6 3)⟩,
    ⟨"STRH_reg", "0101001mmmnnnttt", 0xFE00#16, 0x5200#16, fun h => .strhReg (field h 0 3) (field h 3 3) (field h 6 3)⟩,
    ⟨"STRB_reg", "0101010mmmnnnttt", 0xFE00#16, 0x5400#16, fun h => .strbReg (field h 0 3) (field h 3 3) (field h 6 3)⟩,
    ⟨"LDRSB_reg", "0101011mmmnnnttt", 0xFE00#16, 0x5600#16, fun h => .ldrsbReg (field h 0 3) (field h 3 3) (field h 6 3)⟩,
    ⟨"LDR_reg", "0101100mmmnnnttt", 0xFE00#16, 0x5800#16, fun h => .ldrReg (field h 0 3) (field h 3 3) (field h 6 3)⟩,
    ⟨"LDRH_reg", "0101101mmmnnnttt", 0xFE00#16, 0x5A00#16, fun h => .ldrhReg (field h 0 3) (field h 3 3) (field h 6 3)⟩,
    ⟨"LDRB_reg", "0101110mmmnnnttt", 0xFE00#16, 0x5C00#16, fun h => .ldrbReg (field h 0 3) (field h 3 3) (field h 6 3)⟩,
    ⟨"LDRSH_reg", "0101111mmmnnnttt", 0xFE00#16, 0x5E00#16, fun h => .ldrshReg (field h 0 3) (field h 3 3) (field h 6 3)⟩,
    ⟨"STR_imm", "01100iiiiinnnttt", 0xF800#16, 0x6000#16, fun h => .strImm (field h 0 3) (field h 3 3) (field h 6 5)⟩,
    ⟨"LDR_imm", "01101iiiiinnnttt", 0xF800#16, 0x6800#16, fun h => .ldrImm (field h 0 3) (field h 3 3) (field h 6 5)⟩,
    ⟨"STRB_imm", "01110iiiiinnnttt", 0xF800#16, 0x7000#16, fun h => .strbImm (field h 0 3) (field h 3 3) (field h 6 5)⟩,
    ⟨"LDRB_imm", "01111iiiiinnnttt", 0xF800#16, 0x7800#16, fun h => .ldrbImm (field h 0 3) (field h 3 3) (field h 6 5)⟩,
    ⟨"STRH_imm", "10000iiiiinnnttt", 0xF800#16, 0x8000#16, fun h => .strhImm (field h 0 3) (field h 3 3) (field h 6 5)⟩,
    ⟨"LDRH_imm", "10001iiiiinnnttt", 0xF800#16, 0x8800#16, fun h => .ldrhImm (field h 0 3) (field h 3 3) (field h 6 5)⟩,
    ⟨"STR_sp", "10010tttiiiiiiii", 0xF800#16, 0x9000#16, fun h => .strSp (field h 8 3) (field h 0 8)⟩,
    ⟨"LDR_sp", "10011tttiiiiiiii", 0xF800#16, 0x9800#16, fun h => .ldrSp (field h 8 3) (field h 0 8)⟩,
    ⟨"ADR", "10100dddiiiiiiii", 0xF800#16, 0xA000#16, fun h => .adr (field h 8 3) (field h 0 8)⟩,
    ⟨"ADD_Rd_SP", "10101dddiiiiiiii", 0xF800#16, 0xA800#16, fun h => .addRdSp (field h 8 3) (field h 0 8)⟩,
    ⟨"ADD_SP_imm", "101100000iiiiiii", 0xFF80#16, 0xB000#16, fun h => .addSpImm (field h 0 7)⟩,
    ⟨"SUB_SP_imm", "101100001iiiiiii", 0xFF80#16, 0xB080#16, fun h => .subSpImm (field h 0 7)⟩,
    ⟨"PUSH", "1011010Mrrrrrrrr", 0xFE00#16, 0xB400#16, fun h => .push (h.getLsbD 8) (field h 0 8)⟩,
    ⟨"POP", "1011110Prrrrrrrr", 0xFE00#16, 0xBC00#16, fun h => .pop (h.getLsbD 8) (field h 0 8)⟩ ]

/-- Rows 57.0 to 58 of R73: the branches of one halfword. -/
def catalogBranch : List CatalogRow :=
  [ ⟨"BEQ", "11010000iiiiiiii", 0xFF00#16, 0xD000#16, fun h => .beq (field h 0 8)⟩,
    ⟨"BNE", "11010001iiiiiiii", 0xFF00#16, 0xD100#16, fun h => .bne (field h 0 8)⟩,
    ⟨"BCS", "11010010iiiiiiii", 0xFF00#16, 0xD200#16, fun h => .bcs (field h 0 8)⟩,
    ⟨"BCC", "11010011iiiiiiii", 0xFF00#16, 0xD300#16, fun h => .bcc (field h 0 8)⟩,
    ⟨"BMI", "11010100iiiiiiii", 0xFF00#16, 0xD400#16, fun h => .bmi (field h 0 8)⟩,
    ⟨"BPL", "11010101iiiiiiii", 0xFF00#16, 0xD500#16, fun h => .bpl (field h 0 8)⟩,
    ⟨"BVS", "11010110iiiiiiii", 0xFF00#16, 0xD600#16, fun h => .bvs (field h 0 8)⟩,
    ⟨"BVC", "11010111iiiiiiii", 0xFF00#16, 0xD700#16, fun h => .bvc (field h 0 8)⟩,
    ⟨"BHI", "11011000iiiiiiii", 0xFF00#16, 0xD800#16, fun h => .bhi (field h 0 8)⟩,
    ⟨"BLS", "11011001iiiiiiii", 0xFF00#16, 0xD900#16, fun h => .bls (field h 0 8)⟩,
    ⟨"BGE", "11011010iiiiiiii", 0xFF00#16, 0xDA00#16, fun h => .bge (field h 0 8)⟩,
    ⟨"BLT", "11011011iiiiiiii", 0xFF00#16, 0xDB00#16, fun h => .blt (field h 0 8)⟩,
    ⟨"BGT", "11011100iiiiiiii", 0xFF00#16, 0xDC00#16, fun h => .bgt (field h 0 8)⟩,
    ⟨"BLE", "11011101iiiiiiii", 0xFF00#16, 0xDD00#16, fun h => .ble (field h 0 8)⟩,
    ⟨"BAL", "11011110iiiiiiii", 0xFF00#16, 0xDE00#16, fun h => .bal (field h 0 8)⟩,
    ⟨"B", "11100iiiiiiiiiii", 0xF800#16, 0xE000#16, fun h => .b (field h 0 11)⟩ ]

/-- The rows of one halfword in registration order, which is the decode order (R73, R74). -/
def catalog : List CatalogRow := catalogDataProcessing ++ catalogLoadStore ++ catalogBranch

/-- Row 59, BL: both halfwords must match (R68, R73, R74). -/
def acceptsBl (h1 h2 : Halfword) : Bool :=
  h1 &&& 0xF800#16 == 0xF000#16 && h2 &&& 0xF800#16 == 0xF800#16

/-- The decoder (R74): the first row that matches, or the name of the undefined encoding (R75). -/
def decode : Opcode → Except Reject Instr
  | .one h1 =>
    match catalog.find? (fun r => r.accepts h1) with
    | some r => .ok (r.build h1)
    | none => .error (rejectOf h1)
  | .two h1 h2 =>
    if acceptsBl h1 h2 then .ok (.bl (field h1 10 1) (field h1 0 10) (field h2 0 11))
    else if startsPair h1 then .error (.pairSecondHalfword h1 h2)
    else .error .notAnOpcode

/-- Decoding from bytes, the lowest address first (R43, R69): the instruction and the bytes after it. -/
def decodeBytes : List Byte → Except Reject (Instr × List Byte)
  | b0 :: b1 :: rest =>
    if startsPair (pack (b1 ++ b0)) then
      match rest with
      | b2 :: b3 :: rest' => (decode (.two (pack (b1 ++ b0)) (pack (b3 ++ b2)))).map (·, rest')
      | _ => .error .notAnOpcode
    else (decode (.one (pack (b1 ++ b0)))).map (·, rest)
  | _ => .error .notAnOpcode

/-- The encoder: the halfwords of an instruction, written from the layouts of R73 (R78; R87 for BL). -/
def encode : Instr → Opcode
  | .movsReg rd rm => .one (pack (0b0000000000#10 ++ rm ++ rd))
  | .lslsImm rd rm imm5 => .one (pack (0b00000#5 ++ imm5 ++ rm ++ rd))
  | .lsrsImm rd rm imm5 => .one (pack (0b00001#5 ++ imm5 ++ rm ++ rd))
  | .asrsImm rd rm imm5 => .one (pack (0b00010#5 ++ imm5 ++ rm ++ rd))
  | .addsReg rd rn rm => .one (pack (0b0001100#7 ++ rm ++ rn ++ rd))
  | .subsReg rd rn rm => .one (pack (0b0001101#7 ++ rm ++ rn ++ rd))
  | .addsImm3 rd rn imm3 => .one (pack (0b0001110#7 ++ imm3 ++ rn ++ rd))
  | .subsImm3 rd rn imm3 => .one (pack (0b0001111#7 ++ imm3 ++ rn ++ rd))
  | .movsImm8 rd imm8 => .one (pack (0b00100#5 ++ rd ++ imm8))
  | .cmpImm8 rn imm8 => .one (pack (0b00101#5 ++ rn ++ imm8))
  | .addsImm8 rd imm8 => .one (pack (0b00110#5 ++ rd ++ imm8))
  | .subsImm8 rd imm8 => .one (pack (0b00111#5 ++ rd ++ imm8))
  | .ands rdn rm => .one (pack (0b0100000000#10 ++ rm ++ rdn))
  | .eors rdn rm => .one (pack (0b0100000001#10 ++ rm ++ rdn))
  | .lslsReg rdn rm => .one (pack (0b0100000010#10 ++ rm ++ rdn))
  | .lsrsReg rdn rm => .one (pack (0b0100000011#10 ++ rm ++ rdn))
  | .asrsReg rdn rm => .one (pack (0b0100000100#10 ++ rm ++ rdn))
  | .adcs rdn rm => .one (pack (0b0100000101#10 ++ rm ++ rdn))
  | .sbcs rdn rm => .one (pack (0b0100000110#10 ++ rm ++ rdn))
  | .rors rdn rm => .one (pack (0b0100000111#10 ++ rm ++ rdn))
  | .tst rn rm => .one (pack (0b0100001000#10 ++ rm ++ rn))
  | .rsbs rd rn => .one (pack (0b0100001001#10 ++ rn ++ rd))
  | .cmpReg rn rm => .one (pack (0b0100001010#10 ++ rm ++ rn))
  | .cmn rn rm => .one (pack (0b0100001011#10 ++ rm ++ rn))
  | .orrs rdn rm => .one (pack (0b0100001100#10 ++ rm ++ rdn))
  | .muls rdm rn => .one (pack (0b0100001101#10 ++ rn ++ rdm))
  | .bics rdn rm => .one (pack (0b0100001110#10 ++ rm ++ rdn))
  | .mvns rd rm => .one (pack (0b0100001111#10 ++ rm ++ rd))
  | .addHi rdn rm => .one (pack (0b01000100#8 ++ rdn.extractLsb' 3 1 ++ rm ++ rdn.extractLsb' 0 3))
  | .cmpHi rn rm => .one (pack (0b01000101#8 ++ rn.extractLsb' 3 1 ++ rm ++ rn.extractLsb' 0 3))
  | .movHi rd rm => .one (pack (0b01000110#8 ++ rd.extractLsb' 3 1 ++ rm ++ rd.extractLsb' 0 3))
  | .bx rm => .one (pack (0b010001110#9 ++ rm ++ 0b000#3))
  | .blx rm => .one (pack (0b010001111#9 ++ rm ++ 0b000#3))
  | .ldrLit rt imm8 => .one (pack (0b01001#5 ++ rt ++ imm8))
  | .strReg rt rn rm => .one (pack (0b0101000#7 ++ rm ++ rn ++ rt))
  | .strhReg rt rn rm => .one (pack (0b0101001#7 ++ rm ++ rn ++ rt))
  | .strbReg rt rn rm => .one (pack (0b0101010#7 ++ rm ++ rn ++ rt))
  | .ldrsbReg rt rn rm => .one (pack (0b0101011#7 ++ rm ++ rn ++ rt))
  | .ldrReg rt rn rm => .one (pack (0b0101100#7 ++ rm ++ rn ++ rt))
  | .ldrhReg rt rn rm => .one (pack (0b0101101#7 ++ rm ++ rn ++ rt))
  | .ldrbReg rt rn rm => .one (pack (0b0101110#7 ++ rm ++ rn ++ rt))
  | .ldrshReg rt rn rm => .one (pack (0b0101111#7 ++ rm ++ rn ++ rt))
  | .strImm rt rn imm5 => .one (pack (0b01100#5 ++ imm5 ++ rn ++ rt))
  | .ldrImm rt rn imm5 => .one (pack (0b01101#5 ++ imm5 ++ rn ++ rt))
  | .strbImm rt rn imm5 => .one (pack (0b01110#5 ++ imm5 ++ rn ++ rt))
  | .ldrbImm rt rn imm5 => .one (pack (0b01111#5 ++ imm5 ++ rn ++ rt))
  | .strhImm rt rn imm5 => .one (pack (0b10000#5 ++ imm5 ++ rn ++ rt))
  | .ldrhImm rt rn imm5 => .one (pack (0b10001#5 ++ imm5 ++ rn ++ rt))
  | .strSp rt imm8 => .one (pack (0b10010#5 ++ rt ++ imm8))
  | .ldrSp rt imm8 => .one (pack (0b10011#5 ++ rt ++ imm8))
  | .adr rd imm8 => .one (pack (0b10100#5 ++ rd ++ imm8))
  | .addRdSp rd imm8 => .one (pack (0b10101#5 ++ rd ++ imm8))
  | .addSpImm imm7 => .one (pack (0b101100000#9 ++ imm7))
  | .subSpImm imm7 => .one (pack (0b101100001#9 ++ imm7))
  | .push lr list => .one (pack (0b1011010#7 ++ BitVec.ofBool lr ++ list))
  | .pop pc list => .one (pack (0b1011110#7 ++ BitVec.ofBool pc ++ list))
  | .beq imm8 => .one (pack (0b11010000#8 ++ imm8))
  | .bne imm8 => .one (pack (0b11010001#8 ++ imm8))
  | .bcs imm8 => .one (pack (0b11010010#8 ++ imm8))
  | .bcc imm8 => .one (pack (0b11010011#8 ++ imm8))
  | .bmi imm8 => .one (pack (0b11010100#8 ++ imm8))
  | .bpl imm8 => .one (pack (0b11010101#8 ++ imm8))
  | .bvs imm8 => .one (pack (0b11010110#8 ++ imm8))
  | .bvc imm8 => .one (pack (0b11010111#8 ++ imm8))
  | .bhi imm8 => .one (pack (0b11011000#8 ++ imm8))
  | .bls imm8 => .one (pack (0b11011001#8 ++ imm8))
  | .bge imm8 => .one (pack (0b11011010#8 ++ imm8))
  | .blt imm8 => .one (pack (0b11011011#8 ++ imm8))
  | .bgt imm8 => .one (pack (0b11011100#8 ++ imm8))
  | .ble imm8 => .one (pack (0b11011101#8 ++ imm8))
  | .bal imm8 => .one (pack (0b11011110#8 ++ imm8))
  | .b imm11 => .one (pack (0b11100#5 ++ imm11))
  | .bl sign imm10 imm11 => .two (pack (0b11110#5 ++ sign ++ imm10)) (pack (0b11111#5 ++ imm11))

/-- The first and second halfword of an instruction whose bits the opcode table numbers as `w`. A row of one halfword is
bits 15:0. The table's row of BL puts the FIRST halfword in bits 31:16 (R73, the sentence after the table); a pair written
with its first halfword in bits 15:0 is read as well. The two cannot be confused, since the first halfword starts with
11110 and the second with 11111 (assumption log 4). -/
def tableHalfwords (nbits w : Nat) : Halfword × Halfword :=
  let low := BitVec.ofNat 16 (w % 2 ^ nbits)
  let high := BitVec.ofNat 16 (w % 2 ^ nbits / 2 ^ 16)
  if startsPair high then (high, low) else (low, high)

/-- The bytes of that instruction as memory holds them, to the longest instruction's four (R43). -/
def tableBytes (nbits w : Nat) : List Byte :=
  halfwordBytes (tableHalfwords nbits w).1 ++ halfwordBytes (tableHalfwords nbits w).2

/-- The instruction that the decoder reads from an instruction whose bits are `w`, numbered as the opcode table numbers
them. -/
def decodeTableWord (nbits w : Nat) : Option Instr :=
  match decodeBytes (tableBytes nbits w) with
  | .ok (i, _) => some i
  | .error _ => none

end Sys2Proof
end

