-- ==== Sys2Proof/Config.lean ====
section
/-! DEFINITION. What an implementation fixes (the parameters of R7), the fixed addresses of the memory layout, and the
free values: the draws, which the spec does not fix (R17, R54, R55, R265). -/

namespace Sys2Proof

/-- FLASH_ORIGIN (R7, R51): the start of the code segment and of the vector table. -/
def Config.flashOrigin : Word := 0x08000000#32

/-- CODE_ENTRY, which is also RESET_PC (R7, R37, 90_conflicts.md C6). -/
def Config.codeEntry : Word := 0x08000008#32

/-- RAM_ORIGIN (R7, R51): the start of the data segment. -/
def Config.ramOrigin : Word := 0x20000000#32

/-- INITIAL_SP, the first word of the vector table (R7, R50). -/
def Config.initialSp : Word := 0x20002000#32

/-- One region of MEMMAP (R51): a base, a size in bytes, and the attributes `readonly` (R52) and `device` (R54). -/
structure Region where
  base : Word
  size : Nat
  readonly : Bool
  device : Bool
  deriving DecidableEq, Repr

/-- MEMMAP (R51): the regions of the address space. An address in none of them is unmapped (R53). -/
abbrev MemMap := List Region

/-- The OPEN parameters of R7. They stand in `State` as a field that no instruction changes, so that a statement about
every state is a statement about every value of every parameter. TICK_PERIOD is not among them: no rule uses it (R296). -/
structure Params where
  /-- MEMMAP (R51). -/
  memmap : MemMap
  /-- RESET_SP: SP after reset (R37, 90_conflicts.md C3). -/
  resetSp : Word
  /-- BL_LINK_BIT: bit 0 of the link value of BL and BLX (R246, R248). -/
  linkBit : BitVec 1
  /-- HALT_ADDR: the address at which a run ends, or none (R297). -/
  haltAddr : Option Word
  deriving DecidableEq, Repr

/-- TEST_MEMMAP (92_eei_decisions.md D12): 64 KiB of read-only flash and 8 KiB of RAM, nothing else mapped. -/
def Config.testMemmap : MemMap :=
  [⟨0x08000000#32, 0x10000, true, false⟩, ⟨0x20000000#32, 0x2000, false, false⟩]

/-- The default of each parameter (R7, D12, D15, D8, D30; 95_test_vectors.md section 0).
DESIGN CHOICE, unsafe for a statement about `State.reset` alone (assumption log 1). -/
def Config.defaultParams : Params where
  memmap := Config.testMemmap
  resetSp := Config.initialSp
  linkBit := 1#1
  haltAddr := none

/-- The draws of R17: the n-th byte the machine reads that the spec leaves open, that is, a byte of a device region (R54)
or a RAM or flash byte not written since the last `clear()` (R55). A FREE VALUE: it has no body (assumption log 2). -/
opaque Config.drawByte : Nat → Byte

/-- The choices of R265: whether the n-th word or register that a PUSH or POP had transferred before its faulting access
holds its new value. A FREE VALUE: it has no body (assumption log 3). -/
opaque Config.keepsNew : Nat → Bool

end Sys2Proof
end

