-- ==== Sys2Proof/Machine/State.lean ====
section
/-! DEFINITION. The state of the core (10_state.md): sixteen registers, APSR, the run state, the fault record, the memory
behind the contract, the cycle's PC-write mark, the parameters, and the count of draws; and the machine after reset (R37). -/

namespace Sys2Proof.Machine

/-- The run state of the processor loop (R28). -/
inductive RunState where
  | idle | running | halted
  deriving DecidableEq, Repr

/-- What an access is for (R260): an instruction fetch, a data read or a data write. -/
inductive Access where
  | fetch | read | write
  deriving DecidableEq, Repr

/-- The access widths (R46): 1, 2 or 4 bytes. -/
inductive Width where
  | byte | half | word
  deriving DecidableEq, Repr

/-- The fault record of R30 when a fault is recorded: its kind and the info of the table of R260. `a` is the address of the
faulting instruction. These are faults of the modelled core: a step that takes one answers a NEXT state (R264). -/
inductive FaultRecord where
  /-- Code 1: the fetched halfword or pair matches no row of the catalog (R261). -/
  | undefinedInstruction (a : Word) (h1 : Halfword) (h2 : Option Halfword)
  /-- Code 2: an access of width 2 or 4 at an address that is no multiple of its width (R262). -/
  | alignmentFault (a ea : Word) (width : Width) (access : Access)
  /-- Code 3: an access to a byte that no region of MEMMAP covers (R263). -/
  | memoryFault (a addr : Word) (width : Width) (access : Access)
  /-- Code 4: PUSH or POP with an empty register list (R266). -/
  | unpredictable (a : Word) (h1 : Halfword)
  deriving DecidableEq, Repr

/-- How a HOST operation can fail outright. No step answers a fault: what goes wrong in a cycle is recorded in the state
(R264) and the step answers that next state. -/
inductive Fault where
  /-- Raised by the host's image load and memory read at an address that no region of MEMMAP covers: the structural error
  "no device responsible for address", fatal to the call (R53, R263). Safe: nothing goes on from it. -/
  | hostUnmapped (addr : Word)
  /-- Raised by the host's memory read at an address that is no multiple of the width read: the check of R44 on a read of the
  host's (DESIGN CHOICE, assumption log 14). Safe: nothing is read. -/
  | hostMisaligned (addr : Word)
  /-- Raised by the host's image load for a segment whose bytes are not all in the image's content (R292 gives no meaning
  to such a segment). Safe: nothing is written. -/
  | segmentOutsideContent (fileOffset size : Nat)
  /-- Raised by the host's register write when the value cannot be constructed: an integer out of range for its reading, or
  a number that is no integer, the Range error of R9, fatal to the call (R280). Safe: nothing is written. -/
  | rangeError
  deriving DecidableEq, Repr

/-- Why an operation has no effect. No step answers a refusal: every instruction of the catalog has its meaning. -/
inductive Refusal where
  /-- An instruction without a meaning. No arm answers it. Safe. -/
  | notModelled (mnemonic : String)
  /-- Raised by the host's `reset()` while Running (R29, R290). Safe: the spec says refused, no state change. -/
  | resetWhileRunning
  /-- Raised by the host's `execute()` while a fault is recorded (R30, R280). Safe: the spec says refused. -/
  | executeAfterFault
  /-- Raised by the host's register write and image load outside Idle (R280). Safe: the spec allows them in Idle only. -/
  | notIdle
  deriving DecidableEq, Repr

/-- Memory: the bytes written since the last `clear()`, by address (R41, R44). An unlisted byte reads as a draw (R55). -/
abbrev Memory := List Host.Cell

/-- The canonical form of a memory: addresses strictly rising and inside the address space (R41). An unlisted byte reads as
a draw, which equals no byte, so that no entry is redundant. -/
abbrev Memory.wf (m : Memory) : Prop :=
  (m.map Prod.fst).Pairwise (· < ·) ∧ ∀ c ∈ m, c.1 < 2 ^ 32

/-- The state of the machine. -/
structure State where
  /-- R0 to R12, SP (13), LR (14) and PC (15) (R20, R21). -/
  regs : Vector Word 16
  /-- APSR: N, Z, C and V at bits 31 to 28 (R24). -/
  apsr : Word
  /-- The run state (R28). -/
  run : RunState
  /-- The fault record (R30). -/
  fault : Option FaultRecord
  /-- The memory behind the contract (R40, R44). -/
  mem : Memory
  /-- The cycle's mark that the executing instruction wrote PC (R100, R106). It is false between cycles. -/
  wrotePC : Bool
  /-- The OPEN parameters (R7). No operation of the core or of the host changes them. -/
  params : Params
  /-- The MODEL's own counter: how many draws have been taken (assumption logs 2 and 3). -/
  draws : Nat
  deriving DecidableEq, Repr

/-- The state after `reset()` for any value of the parameters (R37, R290), and when the core is first built (R39).
The count of draws is the model's own and starts at 0 (DESIGN CHOICE, assumption log 2). -/
def State.resetWith (p : Params) : State where
  regs := #v[0#32, 0#32, 0#32, 0#32, 0#32, 0#32, 0#32, 0#32, 0#32, 0#32, 0#32, 0#32, 0#32, p.resetSp, 0#32,
    Config.codeEntry]
  apsr := 0#32
  run := .idle
  fault := none
  mem := []
  wrotePC := false
  params := p
  draws := 0

/-- The machine right after reset, with the default parameters (R7, R37). -/
def State.reset : State := State.resetWith Config.defaultParams

end Sys2Proof.Machine
end

