-- ==== Sys2Proof/Machine/Ops.lean ====
section
/-! DEFINITION. The named operations on the state: registers and PC (R104 to R106), the flags of APSR (R24), draws (R54, R55),
the memory contract (R40 to R55), and taking a fault (R264) with the only way back from one, the reset (R290). -/

namespace Sys2Proof.Machine

/-! ## Registers -/

/-- The number of SP (R21). -/
def SP : RegNum := 13#4

/-- The number of LR (R21). -/
def LR : RegNum := 14#4

/-- The number of PC (R21). -/
def PC : RegNum := 15#4

/-- The register number of a 3-bit field: R0 to R7 (R22). -/
def low (r : LowReg) : RegNum := r.setWidth 4

/-- `x[i]`: the value a register holds (R12). -/
def State.reg (s : State) (r : RegNum) : Word := s.regs[r.toNat]'r.isLt

/-- `x[i] <- v` (R12): no register is hardwired, and no bit of a value is forced (R23). -/
def State.setReg (s : State) (r : RegNum) (v : Word) : State := { s with regs := s.regs.set r.toNat v r.isLt }

/-- `pc`: during a cycle, the address `a` of the instruction (R101). -/
def State.pc (s : State) : Word := s.reg PC

/-- A register read as an operand: R15 reads as `a + 4` (R104). -/
def State.operand (s : State) (r : RegNum) : Word := if r = PC then s.pc + 4#32 else s.reg r

/-- A low register read as an operand (R22). -/
def State.lowReg (s : State) (r : LowReg) : Word := s.reg (low r)

/-- A write through a 3-bit field (R22, R107). -/
def State.setLow (s : State) (r : LowReg) (v : Word) : State := s.setReg (low r) v

/-- `v AND 0xFFFFFFFE`: the value a PC write stores (R106). -/
def clearBit0 (v : Word) : Word := v &&& 0xFFFFFFFE#32

/-- `Align(v, 4)` (R12). -/
def align4 (v : Word) : Word := v &&& 0xFFFFFFFC#32

/-- `pc <- v`: bit 0 is cleared and the mark is set, whatever the value (R106). -/
def State.writePC (s : State) (v : Word) : State := { s.setReg PC (clearBit0 v) with wrotePC := true }

/-- A write through a 4-bit field: register 15 is a PC write (R106, R140, R168). -/
def State.setHigh (s : State) (r : RegNum) (v : Word) : State := if r = PC then s.writePC v else s.setReg r v

/-! ## The flags of APSR -/

/-- N, bit 31 (R24). -/
def State.flagN (s : State) : Bool := s.apsr.getLsbD 31

/-- Z, bit 30 (R24). -/
def State.flagZ (s : State) : Bool := s.apsr.getLsbD 30

/-- C, bit 29 (R24). -/
def State.flagC (s : State) : Bool := s.apsr.getLsbD 29

/-- V, bit 28 (R24). -/
def State.flagV (s : State) : Bool := s.apsr.getLsbD 28

/-- Writing N, Z, C and V. Bits 27 to 0 keep their values: no instruction writes them (R25). -/
def State.setNZCV (s : State) (n z c v : Bool) : State :=
  { s with apsr :=
      (BitVec.ofBool n ++ BitVec.ofBool z ++ BitVec.ofBool c ++ BitVec.ofBool v ++ s.apsr.extractLsb' 0 28).setWidth 32 }

/-! ## Draws -/

/-- Counting one draw. -/
def State.nextDraw (s : State) : State := { s with draws := s.draws + 1 }

/-- A draw of one byte: an unconstrained byte, a fresh one each time (R54, R55, 92_eei_decisions.md D13). -/
def State.drawByte (s : State) : Byte × State := (Config.drawByte s.draws, s.nextDraw)

/-! ## Memory as data -/

/-- The byte last written at an address since the last `clear()`, if any (R44). -/
def Memory.lookup : Memory → Nat → Option Byte
  | [], _ => none
  | (k, b) :: m, a => if k = a then some b else Memory.lookup m a

/-- Writing one byte, keeping the addresses rising. -/
def Memory.store : Memory → Nat → Byte → Memory
  | [], a, b => [(a, b)]
  | (k, c) :: m, a, b =>
    if a < k then (a, b) :: (k, c) :: m
    else if a = k then (a, b) :: m
    else (k, c) :: Memory.store m a b

/-- What memory holds at an address: the byte last written there, or none where a read is a draw (R44, R55). -/
def State.peek (s : State) (a : Word) : Option Byte := s.mem.lookup a.toNat

/-- Storing one byte, whatever region it is in. -/
def State.poke (s : State) (a : Word) (b : Byte) : State := { s with mem := s.mem.store a.toNat b }

/-- `clear()`: afterwards every RAM and flash byte reads as a draw until it is next written (R55). -/
def State.clear (s : State) : State := { s with mem := [] }

/-! ## The memory map -/

/-- Whether a region covers an address (R51). -/
def Region.covers (r : Region) (a : Word) : Bool := r.base.toNat ≤ a.toNat && a.toNat < r.base.toNat + r.size

/-- The region of an address, if any (R51, R53). -/
def regionAt (m : MemMap) (a : Word) : Option Region := m.find? (fun r => Region.covers r a)

/-- The region of an address in the machine's MEMMAP. -/
def State.region (s : State) (a : Word) : Option Region := regionAt s.params.memmap a

/-- Whether some region covers an address. -/
def State.mapped (s : State) (a : Word) : Bool := (s.region a).isSome

/-- Whether an address is in a region that belongs to no peripheral: RAM or flash (R44, R54). -/
def State.plain (s : State) (a : Word) : Bool :=
  match s.region a with
  | some r => !r.device
  | none => false

/-- Whether a core write to an address is stored: its region is neither read-only (R52) nor a device's (R54). -/
def State.writable (s : State) (a : Word) : Bool :=
  match s.region a with
  | some r => !r.readonly && !r.device
  | none => false

/-! ## The memory contract -/

/-- `readByte(a)` (R40, R44): a RAM or flash byte is the last one written there, or a draw if there is none (R55); every
read of a device region is a draw (R54). -/
def State.readByte (s : State) (a : Word) : Byte × State :=
  if s.plain a then
    match s.peek a with
    | some b => (b, s)
    | none => s.drawByte
  else s.drawByte

/-- `readByte`, `readHalfword` and `readWord` (R40) for `n` = 1, 2 and 4: the bytes from the lowest address up. -/
def State.readBytes : Nat → Word → State → List Byte × State
  | 0, _, s => ([], s)
  | n + 1, a, s =>
    let (b, s1) := s.readByte a
    let (bs, s2) := State.readBytes n (a + 1#32) s1
    (b :: bs, s2)

/-- Little-endian composition: the sum of `byte(a+k) * 2^(8k)` (R11, R42). -/
def composeLE : List Byte → Nat
  | [] => 0
  | b :: bs => b.toNat + 256 * composeLE bs

/-- Little-endian decomposition: byte `k` is `v[8k+7:8k]` (R11, R42). -/
def splitLE : Nat → Word → List Byte
  | 0, _ => []
  | n + 1, v => v.extractLsb' 0 8 :: splitLE n (v >>> 8)

/-- `writeByte(a, v)` as the core writes: dropped in a read-only region (R52), accepted and unobservable in a device region
(R54, R275), stored elsewhere. -/
def State.writeByte (s : State) (a : Word) (b : Byte) : State := if s.writable a then s.poke a b else s

/-- `writeBytes(a, bytes)` (R40); `writeByte`, `writeHalfword` and `writeWord` are its cases of 1, 2 and 4 bytes. -/
def State.writeBytes : List Byte → Word → State → State
  | [], _, s => s
  | b :: bs, a, s => State.writeBytes bs (a + 1#32) (s.writeByte a b)

/-- The bytes of a width (R46). -/
def Width.bytes : Width → Nat
  | .byte => 1
  | .half => 2
  | .word => 4

/-- Whether every one of `n` bytes from `a` up is in some region. -/
def State.allMapped (s : State) : Nat → Word → Bool
  | 0, _ => true
  | n + 1, a => s.mapped a && State.allMapped s n (a + 1#32)

/-- The fault an access raises, if any: alignment first, then the memory map (R44, R45, R267). -/
def State.accessFault (s : State) (acc : Access) (w : Width) (addr : Word) : Option FaultRecord :=
  if addr.toNat % w.bytes ≠ 0 then some (.alignmentFault s.pc addr w acc)
  else if s.allMapped w.bytes addr then none
  else some (.memoryFault s.pc addr w acc)

/-- `MemRead(addr, n)` (R44), its value zero-extended to a Word. -/
def State.memRead (s : State) (acc : Access) (w : Width) (addr : Word) : Except FaultRecord (Word × State) :=
  match s.accessFault acc w addr with
  | some f => .error f
  | none =>
    let (bs, s1) := State.readBytes w.bytes addr s
    .ok (BitVec.ofNat 32 (composeLE bs), s1)

/-- `MemWrite(addr, n, v)` (R45): the low `n` bytes of `v`. -/
def State.memWrite (s : State) (w : Width) (addr v : Word) : Except FaultRecord State :=
  match s.accessFault .write w addr with
  | some f => .error f
  | none => .ok (State.writeBytes (splitLE w.bytes v) addr s)

/-! ## Several words (PUSH and POP) -/

/-- The addresses of `n` words from `a` up. -/
def wordAddrs : Nat → Word → List Word
  | 0, _ => []
  | n + 1, a => a :: wordAddrs n (a + 4#32)

/-- The accesses, in order, before the first that faults, and that fault if there is one (R265, R267). -/
def State.beforeFault (s : State) (acc : Access) : List Word → List Word × Option FaultRecord
  | [] => ([], none)
  | a :: as =>
    match s.accessFault acc .word a with
    | some f => ([], some f)
    | none =>
      let (ok, f) := State.beforeFault s acc as
      (a :: ok, f)

/-- Storing words, in order. -/
def State.storeWords : List (Word × Word) → State → State
  | [], s => s
  | (a, v) :: l, s => State.storeWords l (State.writeBytes (splitLE 4 v) a s)

/-- Loading words, in order. -/
def State.loadWords : List Word → State → List Word × State
  | [], s => ([], s)
  | a :: as, s =>
    let (bs, s1) := State.readBytes 4 a s
    let (vs, s2) := State.loadWords as s1
    (BitVec.ofNat 32 (composeLE bs) :: vs, s2)

/-- Writing registers, in order. -/
def State.setRegs : List (RegNum × Word) → State → State
  | [], s => s
  | (r, v) :: l, s => State.setRegs l (s.setReg r v)

/-- The words a PUSH stored before its faulting access: each holds its new value or its old one, and which is a free
choice (R265). -/
def State.storeSome : List (Word × Word) → State → State
  | [], s => s
  | (a, v) :: l, s =>
    State.storeSome l
      { s.nextDraw with mem := if Config.keepsNew s.draws then (State.writeBytes (splitLE 4 v) a s).mem else s.mem }

/-- The registers a POP loaded before its faulting access: each holds its new value or its old one, and which is a free
choice (R265). -/
def State.setSome : List (RegNum × Word) → State → State
  | [], s => s
  | (r, v) :: l, s => State.setSome l (s.nextDraw.setReg r (if Config.keepsNew s.draws then v else s.reg r))

/-! ## Taking a fault, and the way back -/

/-- Taking a fault (R264): it is recorded and the core halts. PC is not advanced, no handler runs, nothing is stacked. -/
def State.raise (s : State) (f : FaultRecord) : State := { s with fault := some f, run := .halted }

/-- The code of a fault kind (R260). -/
def FaultRecord.code : FaultRecord → Nat
  | .undefinedInstruction _ _ _ => 1
  | .alignmentFault _ _ _ _ => 2
  | .memoryFault _ _ _ _ => 3
  | .unpredictable _ _ => 4

/-- The effects of an accepted `reset()` (R290), which is the only way back from a fault (R30): there is no return from one
(R269). The parameters stay; the count of draws goes on, so that a draw after the reset is a fresh one (R55). -/
def State.afterReset (s : State) : State := { State.resetWith s.params with draws := s.draws }

end Sys2Proof.Machine
end

