-- ==== Sys2Proof/Machine/Cycle.lean ====
section
/-! DEFINITION. The parts of the cycle around the execute step (R100): the fetch (R102), the start, the advance of PC (R105),
the halt at HALT_ADDR (R297), and placing an instruction where the next cycle fetches it. -/

namespace Sys2Proof.Machine

/-- Whether the driver runs a cycle: Running, and no fault recorded (R100). -/
def State.driven (s : State) : Bool := s.run == .running && s.fault == none

/-- Whether PC is HALT_ADDR (R297). -/
def State.atHaltAddr (s : State) : Bool := s.params.haltAddr == some s.pc

/-- The driver's `halt()` (R29, R297): nothing else changes. -/
def State.halt (s : State) : State := { s with run := .halted }

/-- `wrotePC <- false` (R100). -/
def State.beginCycle (s : State) : State := { s with wrotePC := false }

/-- A fetch of one halfword (R102, R43). -/
def State.fetchHalf (s : State) (a : Word) : Except FaultRecord (Halfword × State) :=
  match s.memRead .fetch .half a with
  | .error f => .error f
  | .ok (v, s1) => .ok (v.extractLsb' 0 16, s1)

/-- The fetch (R100, R102): one halfword at PC, and the one at PC + 2 only when the first starts a pair (R69). It answers
the state after the reads, since a read may take draws, and the opcode or the fault. -/
def State.fetchOp (s : State) : State × Except FaultRecord Opcode :=
  match s.fetchHalf s.pc with
  | .error f => (s, .error f)
  | .ok (h1, s1) =>
    if startsPair h1 then
      match s1.fetchHalf (s.pc + 2#32) with
      | .error f => (s1, .error f)
      | .ok (h2, s2) => (s2, .ok (.two h1 h2))
    else (s1, .ok (.one h1))

/-- The fault of an opcode that matches no row (R261): `a`, `h1` and, for a pair, `h2`. -/
def State.undefinedFault (s : State) : Opcode → FaultRecord
  | .one h1 => .undefinedInstruction s.pc h1 none
  | .two h1 h2 => .undefinedInstruction s.pc h1 (some h2)

/-- The end of the cycle (R100, R105): after a fault PC is not advanced (R264); after a PC write the write stands (R106);
otherwise PC advances by the length of the instruction. -/
def State.retire (len : Nat) (s : State) : State :=
  if s.fault.isSome then s
  else if s.wrotePC then { s with wrotePC := false }
  else s.setReg PC (s.pc + BitVec.ofNat 32 len)

/-! ## Placing an instruction -/

/-- Storing bytes whatever their regions, as the host's load does (R292). -/
def State.pokeBytes : List Byte → Word → State → State
  | [], _, s => s
  | b :: bs, a, s => State.pokeBytes bs (a + 1#32) (s.poke a b)

/-- The regions that make the `n` bytes from `a` up RAM where they are unmapped or a device's. -/
def State.coverFor (s : State) : Nat → Word → MemMap
  | 0, _ => []
  | n + 1, a => (if s.plain a then [] else [⟨a, 1, false, false⟩]) ++ State.coverFor s n (a + 1#32)

/-- The state in which the very next step fetches and runs these bytes: they stand at PC, PC is even, MEMMAP covers them,
the machine is Running with no fault recorded, and HALT_ADDR is not PC. Nothing else changes (assumption log 5). -/
def State.placeAtPC (s : State) (bytes : List Byte) : State :=
  let a := clearBit0 s.pc
  let p := s.params
  let params := { p with
    memmap := s.coverFor bytes.length a ++ p.memmap
    haltAddr := if p.haltAddr = some a then none else p.haltAddr }
  State.pokeBytes bytes a { s.setReg PC a with run := .running, fault := none, wrotePC := false, params := params }

end Sys2Proof.Machine
end

