-- ==== Sys2Proof/Machine/Operands.lean ====
section
/-! DEFINITION. The operand forms: how each immediate field is extended and scaled (R72), the effective addresses (R200), the
register list of PUSH and POP (R230), and the branch offsets (R241, R244). -/

namespace Sys2Proof.Machine

/-- `zext_32(imm)`: the unscaled immediates (R72). -/
def zext {w : Nat} (imm : BitVec w) : Word := imm.setWidth 32

/-- `zext_32(imm:'0')`: halfword offsets (R72). -/
def zextHalf {w : Nat} (imm : BitVec w) : Word := (imm ++ 0#1).setWidth 32

/-- `zext_32(imm:'00')`: word offsets (R72). -/
def zextWord {w : Nat} (imm : BitVec w) : Word := (imm ++ 0#2).setWidth 32

/-- `sext_32(imm:'0')`: the branch offsets (R72). -/
def sextHalf {w : Nat} (imm : BitVec w) : Word := (imm ++ 0#1).signExtend 32

/-- The shift amount of LSRS and ASRS by an immediate: 0 means 32 (R72, R181). -/
def shiftAmount (imm5 : BitVec 5) : Nat := if imm5 = 0#5 then 32 else imm5.toNat

/-- The amount of a register shift: `x[m][7:0]`, bits 31:8 ignored (R181). -/
def State.registerAmount (s : State) (rm : LowReg) : Nat := ((s.lowReg rm).extractLsb' 0 8).toNat

/-- `x[n] + x[m]` (R207 to R214). -/
def State.addrReg (s : State) (rn rm : LowReg) : Word := s.lowReg rn + s.lowReg rm

/-- `x[n] + zext_32(imm5:'00')` (R201, R202). -/
def State.addrWord (s : State) (rn : LowReg) (imm5 : BitVec 5) : Word := s.lowReg rn + zextWord imm5

/-- `x[n] + zext_32(imm5:'0')` (R205, R206). -/
def State.addrHalf (s : State) (rn : LowReg) (imm5 : BitVec 5) : Word := s.lowReg rn + zextHalf imm5

/-- `x[n] + zext_32(imm5)` (R203, R204). -/
def State.addrByte (s : State) (rn : LowReg) (imm5 : BitVec 5) : Word := s.lowReg rn + zext imm5

/-- `x[13] + zext_32(imm8:'00')` (R143, R215, R216). -/
def State.addrSp (s : State) (imm8 : BitVec 8) : Word := s.reg SP + zextWord imm8

/-- `Align(a + 4, 4) + zext_32(imm8:'00')` (R104, R142, R217). -/
def State.addrPc (s : State) (imm8 : BitVec 8) : Word := align4 (s.pc + 4#32) + zextWord imm8

/-- `a + 4 + offset` (R241). -/
def State.branchTarget (s : State) (offset : Word) : Word := s.pc + 4#32 + offset

/-- The offset of BL: `sext_32(S:imm10:imm11:'0')` (R244). -/
def linkOffset (sign : BitVec 1) (imm10 : BitVec 10) (imm11 : BitVec 11) : Word := sextHalf (sign ++ imm10 ++ imm11)

/-- A return address with bit 0 = BL_LINK_BIT (R246, R248). -/
def State.linkValue (s : State) (ret : Word) : Word := ret ||| zext s.params.linkBit

/-- The low registers of a register list, ascending: bit `i` selects Ri (R230). -/
def listedRegs (list : BitVec 8) : List RegNum :=
  [0#4, 1#4, 2#4, 3#4, 4#4, 5#4, 6#4, 7#4].filter (fun r => list.getLsbD r.toNat)

/-- The number of registers transferred: `BitCount(r) + M`, or `+ P` (R230). -/
def transferCount (extra : Bool) (list : BitVec 8) : Nat := (listedRegs list).length + extra.toNat

/-- `4 * n` as a Word: the bytes of `n` words (R231, R232). -/
def wordsSize (n : Nat) : Word := BitVec.ofNat 32 (4 * n)

end Sys2Proof.Machine
end

