-- ==== Sys2Proof/Machine/Flags.lean ====
section
/-! DEFINITION. The ALU (R120 to R123), the shifter (R180), the flag writes of the instructions (R26) and the condition
test (R240). -/

namespace Sys2Proof.Machine

/-- What the ALU returns: a Word and the four flags. -/
structure AluResult where
  value : Word
  n : Bool
  z : Bool
  c : Bool
  v : Bool
  deriving DecidableEq, Repr

/-- The kinds of shift (R180). -/
inductive ShiftKind where
  | lsl | lsr | asr | ror
  deriving DecidableEq, Repr

/-- N of `NZ(r)`: `r[31]` (R120). -/
def isNegative (r : Word) : Bool := r.getLsbD 31

/-- Z of `NZ(r)`: `r = 0` (R120). -/
def isZero (r : Word) : Bool := r == 0#32

/-- `AddWithCarry(x, y, cin)` with `NZ` of its result (R120). The sums are exact. -/
def addWithCarry (x y : Word) (cin : Bool) : AluResult :=
  let usum : Nat := x.toNat + y.toNat + cin.toNat
  let ssum : Int := x.toInt + y.toInt + cin.toNat
  let result := BitVec.ofNat 32 usum
  { value := result
    n := isNegative result
    z := isZero result
    c := decide (usum > 0xFFFFFFFF)
    v := decide (result.toInt ≠ ssum) }

/-- `add(a, b)` (R121). -/
def aluAdd (a b : Word) : AluResult := addWithCarry a b false

/-- `sub(a, b)` (R122): C is "no borrow". -/
def aluSub (a b : Word) : AluResult :=
  let result := a - b
  { value := result
    n := isNegative result
    z := isZero result
    c := decide (a.toNat ≥ b.toNat)
    v := a.getLsbD 31 != b.getLsbD 31 && result.getLsbD 31 != a.getLsbD 31 }

/-- `mul(a, b)`: the low 32 bits of the exact product (R123). -/
def aluMul (a b : Word) : Word := BitVec.ofNat 32 (a.toNat * b.toNat)

/-- `Shift_C(x, kind, n, cin)` (R180): the result and the carry. Division of the signed reading by a power of two rounds
toward minus infinity. -/
def shiftC (x : Word) (kind : ShiftKind) (n : Nat) (cin : Bool) : Word × Bool :=
  if n = 0 then (x, cin)
  else
    match kind with
    | .lsl => if n ≤ 32 then (BitVec.ofNat 32 (x.toNat * 2 ^ n), x.getLsbD (32 - n)) else (0#32, false)
    | .lsr => if n ≤ 32 then (BitVec.ofNat 32 (x.toNat / 2 ^ n), x.getLsbD (n - 1)) else (0#32, false)
    | .asr => (BitVec.ofInt 32 (x.toInt / 2 ^ min n 32), x.getLsbD (min n 32 - 1))
    | .ror =>
      let r := n % 32
      if r = 0 then (x, x.getLsbD 31)
      else
        let y := BitVec.ofNat 32 (x.toNat / 2 ^ r + x.toNat % 2 ^ r * 2 ^ (32 - r))
        (y, y.getLsbD 31)

/-! ## Flag writes -/

/-- N, Z, C and V from the ALU (R26). -/
def State.setFlags (s : State) (r : AluResult) : State := s.setNZCV r.n r.z r.c r.v

/-- N and Z from a result; C and V are kept (R14, R26). -/
def State.setNZ (s : State) (r : Word) : State := s.setNZCV (isNegative r) (isZero r) s.flagC s.flagV

/-- N and Z from a result and C from the shifter; V is kept (R14, R26). -/
def State.setNZC (s : State) (r : Word) (c : Bool) : State := s.setNZCV (isNegative r) (isZero r) c s.flagV

/-! ## The condition test -/

/-- `ConditionPassed(cond)` (R240). -/
def State.conditionPassed (s : State) : Cond → Bool
  | .eq => s.flagZ
  | .ne => !s.flagZ
  | .cs => s.flagC
  | .cc => !s.flagC
  | .mi => s.flagN
  | .pl => !s.flagN
  | .vs => s.flagV
  | .vc => !s.flagV
  | .hi => s.flagC && !s.flagZ
  | .ls => !s.flagC || s.flagZ
  | .ge => s.flagN == s.flagV
  | .lt => s.flagN != s.flagV
  | .gt => !s.flagZ && s.flagN == s.flagV
  | .le => s.flagZ || s.flagN != s.flagV
  | .al => true

end Sys2Proof.Machine
end

