-- ==== Sys2Proof/Machine/Arithmetic.lean ====
section
/-! DEFINITION. The arithmetic instructions (41_arithmetic.md): a definition for each form. -/

namespace Sys2Proof.Machine

/-- A result written to a low register, with N, Z, C and V (R127). -/
def State.writeAlu (s : State) (rd : LowReg) (r : AluResult) : State := (s.setLow rd r.value).setFlags r

/-- ADDS (register) (R127). -/
def execAddsReg (rd rn rm : LowReg) (s : State) : Host.Outcome State Fault Refusal :=
  .next (s.writeAlu rd (aluAdd (s.lowReg rn) (s.lowReg rm)))

/-- SUBS (register) (R128). -/
def execSubsReg (rd rn rm : LowReg) (s : State) : Host.Outcome State Fault Refusal :=
  .next (s.writeAlu rd (aluSub (s.lowReg rn) (s.lowReg rm)))

/-- ADDS (3-bit immediate) (R129). -/
def execAddsImm3 (rd rn : LowReg) (imm3 : BitVec 3) (s : State) : Host.Outcome State Fault Refusal :=
  .next (s.writeAlu rd (aluAdd (s.lowReg rn) (zext imm3)))

/-- SUBS (3-bit immediate) (R130). -/
def execSubsImm3 (rd rn : LowReg) (imm3 : BitVec 3) (s : State) : Host.Outcome State Fault Refusal :=
  .next (s.writeAlu rd (aluSub (s.lowReg rn) (zext imm3)))

/-- ADDS (8-bit immediate) (R131). -/
def execAddsImm8 (rd : LowReg) (imm8 : BitVec 8) (s : State) : Host.Outcome State Fault Refusal :=
  .next (s.writeAlu rd (aluAdd (s.lowReg rd) (zext imm8)))

/-- SUBS (8-bit immediate) (R132). -/
def execSubsImm8 (rd : LowReg) (imm8 : BitVec 8) (s : State) : Host.Outcome State Fault Refusal :=
  .next (s.writeAlu rd (aluSub (s.lowReg rd) (zext imm8)))

/-- CMP (8-bit immediate) (R133): the flags only. -/
def execCmpImm8 (rn : LowReg) (imm8 : BitVec 8) (s : State) : Host.Outcome State Fault Refusal :=
  .next (s.setFlags (aluSub (s.lowReg rn) (zext imm8)))

/-- CMP (register, both low) (R134): the flags only. -/
def execCmpReg (rn rm : LowReg) (s : State) : Host.Outcome State Fault Refusal :=
  .next (s.setFlags (aluSub (s.lowReg rn) (s.lowReg rm)))

/-- CMN (R135): the flags only. -/
def execCmn (rn rm : LowReg) (s : State) : Host.Outcome State Fault Refusal :=
  .next (s.setFlags (aluAdd (s.lowReg rn) (s.lowReg rm)))

/-- ADCS (R136): the carry comes in. -/
def execAdcs (rdn rm : LowReg) (s : State) : Host.Outcome State Fault Refusal :=
  .next (s.writeAlu rdn (addWithCarry (s.lowReg rdn) (s.lowReg rm) s.flagC))

/-- SBCS (R137): the second operand is complemented, and the carry comes in. -/
def execSbcs (rdn rm : LowReg) (s : State) : Host.Outcome State Fault Refusal :=
  .next (s.writeAlu rdn (addWithCarry (s.lowReg rdn) (~~~s.lowReg rm) s.flagC))

/-- RSBS (R138): subtract from zero. -/
def execRsbs (rd rn : LowReg) (s : State) : Host.Outcome State Fault Refusal :=
  .next (s.writeAlu rd (aluSub 0#32 (s.lowReg rn)))

/-- MULS (R139): N and Z only. -/
def execMuls (rdm rn : LowReg) (s : State) : Host.Outcome State Fault Refusal :=
  let r := aluMul (s.lowReg rn) (s.lowReg rdm)
  .next ((s.setLow rdm r).setNZ r)

/-- ADD (high registers) (R140): no flag; register 15 reads as `a + 4` and is written as a PC write. -/
def execAddHi (rdn rm : RegNum) (s : State) : Host.Outcome State Fault Refusal :=
  .next (s.setHigh rdn (s.operand rdn + s.operand rm))

/-- CMP (high registers) (R141): the flags only; register 15 reads as `a + 4`. -/
def execCmpHi (rn rm : RegNum) (s : State) : Host.Outcome State Fault Refusal :=
  .next (s.setFlags (aluSub (s.operand rn) (s.operand rm)))

/-- ADR (R142): no flag. -/
def execAdr (rd : LowReg) (imm8 : BitVec 8) (s : State) : Host.Outcome State Fault Refusal :=
  .next (s.setLow rd (s.addrPc imm8))

/-- ADD (SP plus immediate, to register) (R143): no flag. -/
def execAddRdSp (rd : LowReg) (imm8 : BitVec 8) (s : State) : Host.Outcome State Fault Refusal :=
  .next (s.setLow rd (s.addrSp imm8))

/-- ADD (SP plus immediate, to SP) (R144): no flag. -/
def execAddSpImm (imm7 : BitVec 7) (s : State) : Host.Outcome State Fault Refusal :=
  .next (s.setReg SP (s.reg SP + zextWord imm7))

/-- SUB (SP minus immediate) (R145): no flag. -/
def execSubSpImm (imm7 : BitVec 7) (s : State) : Host.Outcome State Fault Refusal :=
  .next (s.setReg SP (s.reg SP - zextWord imm7))


end Sys2Proof.Machine
end

