-- ==== Sys2Proof/Machine/Branch.lean ====
section
/-! DEFINITION. The branch instructions (46_branch.md): a definition for each form. -/

namespace Sys2Proof.Machine

/-- A conditional branch (R242): a taken one writes PC, another writes nothing and PC advances (R105). -/
def State.branchIf (s : State) (c : Cond) (imm8 : BitVec 8) : State :=
  if s.conditionPassed c then s.writePC (s.branchTarget (sextHalf imm8)) else s

/-- BEQ (R242, R240). -/
def execBeq (imm8 : BitVec 8) (s : State) : Host.Outcome State Fault Refusal :=
  .next (s.branchIf .eq imm8)

/-- BNE (R242, R240). -/
def execBne (imm8 : BitVec 8) (s : State) : Host.Outcome State Fault Refusal :=
  .next (s.branchIf .ne imm8)

/-- BCS (R242, R240). -/
def execBcs (imm8 : BitVec 8) (s : State) : Host.Outcome State Fault Refusal :=
  .next (s.branchIf .cs imm8)

/-- BCC (R242, R240). -/
def execBcc (imm8 : BitVec 8) (s : State) : Host.Outcome State Fault Refusal :=
  .next (s.branchIf .cc imm8)

/-- BMI (R242, R240). -/
def execBmi (imm8 : BitVec 8) (s : State) : Host.Outcome State Fault Refusal :=
  .next (s.branchIf .mi imm8)

/-- BPL (R242, R240). -/
def execBpl (imm8 : BitVec 8) (s : State) : Host.Outcome State Fault Refusal :=
  .next (s.branchIf .pl imm8)

/-- BVS (R242, R240). -/
def execBvs (imm8 : BitVec 8) (s : State) : Host.Outcome State Fault Refusal :=
  .next (s.branchIf .vs imm8)

/-- BVC (R242, R240). -/
def execBvc (imm8 : BitVec 8) (s : State) : Host.Outcome State Fault Refusal :=
  .next (s.branchIf .vc imm8)

/-- BHI (R242, R240). -/
def execBhi (imm8 : BitVec 8) (s : State) : Host.Outcome State Fault Refusal :=
  .next (s.branchIf .hi imm8)

/-- BLS (R242, R240). -/
def execBls (imm8 : BitVec 8) (s : State) : Host.Outcome State Fault Refusal :=
  .next (s.branchIf .ls imm8)

/-- BGE (R242, R240). -/
def execBge (imm8 : BitVec 8) (s : State) : Host.Outcome State Fault Refusal :=
  .next (s.branchIf .ge imm8)

/-- BLT (R242, R240). -/
def execBlt (imm8 : BitVec 8) (s : State) : Host.Outcome State Fault Refusal :=
  .next (s.branchIf .lt imm8)

/-- BGT (R242, R240). -/
def execBgt (imm8 : BitVec 8) (s : State) : Host.Outcome State Fault Refusal :=
  .next (s.branchIf .gt imm8)

/-- BLE (R242, R240). -/
def execBle (imm8 : BitVec 8) (s : State) : Host.Outcome State Fault Refusal :=
  .next (s.branchIf .le imm8)

/-- BAL (R242, R240). -/
def execBal (imm8 : BitVec 8) (s : State) : Host.Outcome State Fault Refusal :=
  .next (s.branchIf .al imm8)

/-- B (R243). -/
def execB (imm11 : BitVec 11) (s : State) : Host.Outcome State Fault Refusal :=
  .next (s.writePC (s.branchTarget (sextHalf imm11)))

/-- BL (R246): LR holds the address after the instruction, with BL_LINK_BIT. -/
def execBl (sign : BitVec 1) (imm10 : BitVec 10) (imm11 : BitVec 11) (s : State) : Host.Outcome State Fault Refusal :=
  .next ((s.setReg LR (s.linkValue (s.pc + 4#32))).writePC (s.branchTarget (linkOffset sign imm10 imm11)))

/-- BX (R247): register 15 reads as `a + 4`. -/
def execBx (rm : RegNum) (s : State) : Host.Outcome State Fault Refusal :=
  .next (s.writePC (s.operand rm))

/-- BLX (R248): the target is read before LR is written. -/
def execBlx (rm : RegNum) (s : State) : Host.Outcome State Fault Refusal :=
  .next ((s.setReg LR (s.linkValue (s.pc + 2#32))).writePC (s.operand rm))


end Sys2Proof.Machine
end

