-- ==== Sys2Proof/Machine/LoadStore.lean ====
section
/-! DEFINITION. The load and store instructions (44_load_store.md): a definition for each form. -/

namespace Sys2Proof.Machine

/-- How a loaded value is extended to 32 bits (R200). -/
inductive LoadExtend where
  | zero | signByte | signHalf
  deriving DecidableEq, Repr

/-- `zext_32` or `sext_32` of a loaded value (R200). -/
def extendLoaded (e : LoadExtend) (v : Word) : Word :=
  match e with
  | .zero => v
  | .signByte => (v.extractLsb' 0 8).signExtend 32
  | .signHalf => (v.extractLsb' 0 16).signExtend 32

/-- A load (R200): one read at the effective address, then Rt. A fault is taken before any register is written (R265). -/
def State.load (s : State) (rt : LowReg) (w : Width) (e : LoadExtend) (ea : Word) : State :=
  match s.memRead .read w ea with
  | .error f => s.raise f
  | .ok (v, s1) => s1.setLow rt (extendLoaded e v)

/-- A store (R200): one write of the low bytes of Rt at the effective address. -/
def State.store (s : State) (rt : LowReg) (w : Width) (ea : Word) : State :=
  match s.memWrite w ea (s.lowReg rt) with
  | .error f => s.raise f
  | .ok s1 => s1

/-- LDR (immediate offset) (R201). -/
def execLdrImm (rt rn : LowReg) (imm5 : BitVec 5) (s : State) : Host.Outcome State Fault Refusal :=
  .next (s.load rt .word .zero (s.addrWord rn imm5))

/-- LDRB (immediate offset) (R203). -/
def execLdrbImm (rt rn : LowReg) (imm5 : BitVec 5) (s : State) : Host.Outcome State Fault Refusal :=
  .next (s.load rt .byte .zero (s.addrByte rn imm5))

/-- LDRH (immediate offset) (R205). -/
def execLdrhImm (rt rn : LowReg) (imm5 : BitVec 5) (s : State) : Host.Outcome State Fault Refusal :=
  .next (s.load rt .half .zero (s.addrHalf rn imm5))

/-- LDR (register offset) (R207). -/
def execLdrReg (rt rn rm : LowReg) (s : State) : Host.Outcome State Fault Refusal :=
  .next (s.load rt .word .zero (s.addrReg rn rm))

/-- LDRB (register offset) (R209). -/
def execLdrbReg (rt rn rm : LowReg) (s : State) : Host.Outcome State Fault Refusal :=
  .next (s.load rt .byte .zero (s.addrReg rn rm))

/-- LDRH (register offset) (R211). -/
def execLdrhReg (rt rn rm : LowReg) (s : State) : Host.Outcome State Fault Refusal :=
  .next (s.load rt .half .zero (s.addrReg rn rm))

/-- LDRSB (register offset) (R213). -/
def execLdrsbReg (rt rn rm : LowReg) (s : State) : Host.Outcome State Fault Refusal :=
  .next (s.load rt .byte .signByte (s.addrReg rn rm))

/-- LDRSH (register offset) (R214). -/
def execLdrshReg (rt rn rm : LowReg) (s : State) : Host.Outcome State Fault Refusal :=
  .next (s.load rt .half .signHalf (s.addrReg rn rm))

/-- LDR (SP-relative) (R215). -/
def execLdrSp (rt : LowReg) (imm8 : BitVec 8) (s : State) : Host.Outcome State Fault Refusal :=
  .next (s.load rt .word .zero (s.addrSp imm8))

/-- LDR (literal, PC-relative) (R217). -/
def execLdrLit (rt : LowReg) (imm8 : BitVec 8) (s : State) : Host.Outcome State Fault Refusal :=
  .next (s.load rt .word .zero (s.addrPc imm8))

/-- STR (immediate offset) (R202). -/
def execStrImm (rt rn : LowReg) (imm5 : BitVec 5) (s : State) : Host.Outcome State Fault Refusal :=
  .next (s.store rt .word (s.addrWord rn imm5))

/-- STRB (immediate offset) (R204). -/
def execStrbImm (rt rn : LowReg) (imm5 : BitVec 5) (s : State) : Host.Outcome State Fault Refusal :=
  .next (s.store rt .byte (s.addrByte rn imm5))

/-- STRH (immediate offset) (R206). -/
def execStrhImm (rt rn : LowReg) (imm5 : BitVec 5) (s : State) : Host.Outcome State Fault Refusal :=
  .next (s.store rt .half (s.addrHalf rn imm5))

/-- STR (register offset) (R208). -/
def execStrReg (rt rn rm : LowReg) (s : State) : Host.Outcome State Fault Refusal :=
  .next (s.store rt .word (s.addrReg rn rm))

/-- STRB (register offset) (R210). -/
def execStrbReg (rt rn rm : LowReg) (s : State) : Host.Outcome State Fault Refusal :=
  .next (s.store rt .byte (s.addrReg rn rm))

/-- STRH (register offset) (R212). -/
def execStrhReg (rt rn rm : LowReg) (s : State) : Host.Outcome State Fault Refusal :=
  .next (s.store rt .half (s.addrReg rn rm))

/-- STR (SP-relative) (R216). -/
def execStrSp (rt : LowReg) (imm8 : BitVec 8) (s : State) : Host.Outcome State Fault Refusal :=
  .next (s.store rt .word (s.addrSp imm8))


end Sys2Proof.Machine
end

