-- ==== Sys2Proof/Machine/Logic.lean ====
section
/-! DEFINITION. The logical and move instructions (42_logical_move.md): a definition for each form. -/

namespace Sys2Proof.Machine

/-- A result written to a low register, with N and Z; C and V are kept (R160). -/
def State.writeNZ (s : State) (rd : LowReg) (r : Word) : State := (s.setLow rd r).setNZ r

/-- ANDS (R160). -/
def execAnds (rdn rm : LowReg) (s : State) : Host.Outcome State Fault Refusal :=
  .next (s.writeNZ rdn (s.lowReg rdn &&& s.lowReg rm))

/-- EORS (R161). -/
def execEors (rdn rm : LowReg) (s : State) : Host.Outcome State Fault Refusal :=
  .next (s.writeNZ rdn (s.lowReg rdn ^^^ s.lowReg rm))

/-- ORRS (R162). -/
def execOrrs (rdn rm : LowReg) (s : State) : Host.Outcome State Fault Refusal :=
  .next (s.writeNZ rdn (s.lowReg rdn ||| s.lowReg rm))

/-- BICS (R163). -/
def execBics (rdn rm : LowReg) (s : State) : Host.Outcome State Fault Refusal :=
  .next (s.writeNZ rdn (s.lowReg rdn &&& ~~~s.lowReg rm))

/-- MVNS (R164). -/
def execMvns (rd rm : LowReg) (s : State) : Host.Outcome State Fault Refusal :=
  .next (s.writeNZ rd (~~~s.lowReg rm))

/-- TST (R165): N and Z only, no register. -/
def execTst (rn rm : LowReg) (s : State) : Host.Outcome State Fault Refusal :=
  .next (s.setNZ (s.lowReg rn &&& s.lowReg rm))

/-- MOVS (8-bit immediate) (R166). -/
def execMovsImm8 (rd : LowReg) (imm8 : BitVec 8) (s : State) : Host.Outcome State Fault Refusal :=
  .next (s.writeNZ rd (zext imm8))

/-- MOVS (register, low to low) (R167). -/
def execMovsReg (rd rm : LowReg) (s : State) : Host.Outcome State Fault Refusal :=
  .next (s.writeNZ rd (s.lowReg rm))

/-- MOV (any registers) (R168): no flag; register 15 reads as `a + 4` and is written as a PC write. -/
def execMovHi (rd rm : RegNum) (s : State) : Host.Outcome State Fault Refusal :=
  .next (s.setHigh rd (s.operand rm))


end Sys2Proof.Machine
end

