-- ==== Sys2Proof/Machine/Shift.lean ====
section
/-! DEFINITION. The shift and rotate instructions (43_shift.md): a definition for each form. -/

namespace Sys2Proof.Machine

/-- A shift of a Word by an amount, its result in a low register, with N, Z and the carry; V is kept (R184). -/
def State.writeShift (s : State) (rd : LowReg) (x : Word) (kind : ShiftKind) (n : Nat) : State :=
  let (r, c) := shiftC x kind n s.flagC
  (s.setLow rd r).setNZC r c

/-- LSLS (immediate) (R184). -/
def execLslsImm (rd rm : LowReg) (imm5 : BitVec 5) (s : State) : Host.Outcome State Fault Refusal :=
  .next (s.writeShift rd (s.lowReg rm) .lsl imm5.toNat)

/-- LSRS (immediate) (R185): `imm5 = 0` shifts by 32. -/
def execLsrsImm (rd rm : LowReg) (imm5 : BitVec 5) (s : State) : Host.Outcome State Fault Refusal :=
  .next (s.writeShift rd (s.lowReg rm) .lsr (shiftAmount imm5))

/-- ASRS (immediate) (R186): `imm5 = 0` shifts by 32. -/
def execAsrsImm (rd rm : LowReg) (imm5 : BitVec 5) (s : State) : Host.Outcome State Fault Refusal :=
  .next (s.writeShift rd (s.lowReg rm) .asr (shiftAmount imm5))

/-- LSLS (register) (R187). -/
def execLslsReg (rdn rm : LowReg) (s : State) : Host.Outcome State Fault Refusal :=
  .next (s.writeShift rdn (s.lowReg rdn) .lsl (s.registerAmount rm))

/-- LSRS (register) (R188). -/
def execLsrsReg (rdn rm : LowReg) (s : State) : Host.Outcome State Fault Refusal :=
  .next (s.writeShift rdn (s.lowReg rdn) .lsr (s.registerAmount rm))

/-- ASRS (register) (R189). -/
def execAsrsReg (rdn rm : LowReg) (s : State) : Host.Outcome State Fault Refusal :=
  .next (s.writeShift rdn (s.lowReg rdn) .asr (s.registerAmount rm))

/-- RORS (R190). -/
def execRors (rdn rm : LowReg) (s : State) : Host.Outcome State Fault Refusal :=
  .next (s.writeShift rdn (s.lowReg rdn) .ror (s.registerAmount rm))


end Sys2Proof.Machine
end

