-- ==== Sys2Proof/Machine/Stack.lean ====
section
/-! DEFINITION. The stack instructions (45_stack.md). -/

namespace Sys2Proof.Machine

/-- The words a PUSH stores, from the lowest address up: the listed low registers ascending, then LR (R231). -/
def State.pushed (s : State) (lr : Bool) (list : BitVec 8) : List Word :=
  (listedRegs list).map s.reg ++ if lr then [s.reg LR] else []

/-- The lowest address of a PUSH: `x[13] - 4*n` (R231). -/
def State.pushBase (s : State) (lr : Bool) (list : BitVec 8) : Word := s.reg SP - wordsSize (transferCount lr list)

/-- PUSH (R231): the stores from `pushBase` up, then SP. An empty list raises Unpredictable before any access (R266). On a
fault, the words already stored hold their old or new values, SP is unchanged (R265). -/
def State.push (s : State) (lr : Bool) (list : BitVec 8) : State :=
  if transferCount lr list = 0 then s.raise (.unpredictable s.pc 0xB400#16)
  else
    let base := s.pushBase lr list
    match s.beforeFault .write (wordAddrs (transferCount lr list) base) with
    | (as, none) => (State.storeWords (as.zip (s.pushed lr list)) s).setReg SP base
    | (as, some f) => (State.storeSome (as.zip (s.pushed lr list)) s).raise f

/-- POP (R232): the loads from SP up, into the listed low registers ascending, then SP, then PC from the highest address if
it is listed. An empty list raises Unpredictable before any access (R266). On a fault, the registers already loaded hold
their old or new values, SP and PC are unchanged (R265). -/
def State.pop (s : State) (pc : Bool) (list : BitVec 8) : State :=
  if transferCount pc list = 0 then s.raise (.unpredictable s.pc 0xBC00#16)
  else
    match s.beforeFault .read (wordAddrs (transferCount pc list) (s.reg SP)) with
    | (as, none) =>
      let (vs, s1) := State.loadWords as s
      let s2 := (State.setRegs ((listedRegs list).zip vs) s1).setReg SP (s.reg SP + wordsSize (transferCount pc list))
      if pc then s2.writePC (vs.getLastD 0#32) else s2
    | (as, some f) =>
      let (vs, s1) := State.loadWords as s
      (State.setSome ((listedRegs list).zip vs) s1).raise f

/-- PUSH (R231). -/
def execPush (lr : Bool) (list : BitVec 8) (s : State) : Host.Outcome State Fault Refusal :=
  .next (s.push lr list)

/-- POP (R232). -/
def execPop (pc : Bool) (list : BitVec 8) (s : State) : Host.Outcome State Fault Refusal :=
  .next (s.pop pc list)


end Sys2Proof.Machine
end

