-- ==== Sys2Proof/Machine/Step.lean ====
section
/-! DEFINITION. One tick of the driver (R100, R108, R297), and placing an instruction where it is fetched. -/

namespace Sys2Proof.Machine

/-- One cycle: fetch, decode, execute, advance (R100). A fault in the fetch or the decode is taken here (R264); one in the
execute step is taken by the instruction. -/
def cycle (s : State) : Host.Outcome State Fault Refusal :=
  match s.beginCycle.fetchOp with
  | (s1, .error f) => .next (s1.raise f)
  | (s1, .ok op) =>
    match decode op with
    | .error _ => .next (s1.raise (s1.undefinedFault op))
    | .ok i =>
      match exec i s1 with
      | .next s2 => .next (s2.retire op.len)
      | .fault f => .fault f
      | .refused r => .refused r

/-- One tick (R108). While Running with no fault recorded: the halt at HALT_ADDR (R297), or one cycle. In Idle and Halted no
cycle is driven and nothing changes (R28). -/
def step (s : State) : Host.Outcome State Fault Refusal :=
  if s.driven then
    if s.atHaltAddr then .next s.halt else cycle s
  else .next s

/-- `s` with the instruction whose bits the opcode table numbers as `w` placed where the next step fetches it. -/
def State.withFetchWord (s : State) (nbits w : Nat) : State := s.placeAtPC (tableBytes nbits w)

end Sys2Proof.Machine
end

