-- ==== Sys2Proof/Machine/BinaryValue.lean ====
section
/-! DEFINITION. Binary values (R8 to R10): construction with its range check, and the single-bit operations. -/

namespace Sys2Proof.Machine

/-- Construction from an integer in the unsigned reading: it fails outside `0 .. 2^w - 1` (R9). -/
def unsignedValue (w : Nat) (v : Int) : Option (BitVec w) :=
  if 0 ≤ v ∧ v < 2 ^ w then some (BitVec.ofInt w v) else none

/-- Construction from an integer in the signed reading: it fails outside `-2^(w-1) .. 2^(w-1) - 1` (R9). -/
def signedValue (w : Nat) (v : Int) : Option (BitVec w) :=
  if -(2 ^ w : Int) ≤ 2 * v ∧ 2 * v < 2 ^ w then some (BitVec.ofInt w v) else none

/-- The two readings of a value (R8). -/
inductive Reading where
  | unsigned | signed
  deriving DecidableEq, Repr

/-- What a caller asks a value to be constructed from: an integer with the reading requested, or a number that is no
integer (R9). -/
inductive SourceNumber where
  | integer (reading : Reading) (v : Int)
  | notInteger
  deriving DecidableEq, Repr

/-- Construction of a value of width `w`: it fails for an integer outside the range of its reading, and for a number that is
no integer (R9). -/
def binaryValue (w : Nat) : SourceNumber → Option (BitVec w)
  | .integer .unsigned v => unsignedValue w v
  | .integer .signed v => signedValue w v
  | .notInteger => none

/-- `setBit(n)` (R10). -/
def setBit {w : Nat} (v : BitVec w) (n : Nat) : BitVec w := v ||| (1#w <<< n)

/-- `clearBit(n)` (R10). -/
def clearBit {w : Nat} (v : BitVec w) (n : Nat) : BitVec w := v &&& ~~~(1#w <<< n)

/-- `toggleBit(n)` (R10). -/
def toggleBit {w : Nat} (v : BitVec w) (n : Nat) : BitVec w := v ^^^ (1#w <<< n)

end Sys2Proof.Machine
end

