-- ==== Sys2Proof/Machine/Encoder.lean ====
section
/-! DEFINITION. The encoder's side of the catalog (R78 to R95): from a mnemonic and its operands, with the site address and
the label table, to an instruction or an instruction error. The reading of the operand strings is in OperandText. -/

namespace Sys2Proof.Machine

/-- The mnemonics of the syntax column of R73, with the second names BHS and BLO (R94). -/
inductive Mnemonic where
  | movs | lsls | lsrs | asrs | adds | subs | cmp | ands | eors | adcs | sbcs | rors | tst | rsbs | cmn | orrs | muls
  | bics | mvns | add | mov | bx | blx | ldr | str | strh | strb | ldrsb | ldrh | ldrb | ldrsh | adr | sub | push | pop
  | bcond (c : Cond) | bhs | blo | b | bl
  deriving DecidableEq, Repr

/-- An item of a register list: a register or a range (R86). -/
inductive ListItem where
  | single (r : RegNum)
  | range (first last : RegNum)
  deriving DecidableEq, Repr

/-- An operand that has been read (R91, R92). `[base]` is `memImm base 0` (R83). -/
inductive Operand where
  | reg (r : RegNum)
  | imm (v : Int)
  /-- A number without the `#` that an immediate must carry (R82). -/
  | bare (v : Int)
  | memImm (base : RegNum) (offset : Int)
  | memReg (base index : RegNum)
  /-- A memory operand whose offset is a number without the `#` that it must carry (R82). -/
  | memBare (base : RegNum) (offset : Int)
  | list (items : List ListItem)
  | label (name : String)
  /-- A literal-pool operand `=v`, by its text with the `=` (R88, R91). -/
  | literal (text : String)
  deriving DecidableEq, Repr

/-- Whether an operand is or holds a number without its `#` (R82). -/
def Operand.lacksHash : Operand → Bool
  | .bare _ | .memBare _ _ => true
  | .reg _ | .imm _ | .memImm _ _ | .memReg _ _ | .list _ | .label _ | .literal _ => false

/-- The kinds of instruction error (R89); the two of an immediate are kept apart, since R83 asks for an alignment-specific
error. -/
inductive EncodeErrorKind where
  | operandCount
  | registerClass
  | malformed
  | immediateNotAligned
  | immediateTooWide
  | duplicateRegister
  | unresolvedLabel
  | noEntry
  deriving DecidableEq, Repr

/-- An instruction error carries the offending mnemonic and operands (R89). -/
structure EncodeError where
  kind : EncodeErrorKind
  mnemonic : Mnemonic
  operands : List Operand
  deriving DecidableEq, Repr

/-- What encoding an instruction needs beside its operands: the address of its first halfword, and the label table, which
is absent in the first pass (R84). The table also gives the literal word of `=v`, under the operand's text (R88; DEDUCED,
assumption log 17). -/
structure EncodeContext where
  site : Word
  labels : Option (List (String × Word))
  deriving DecidableEq, Repr

/-- The register names and their second names (R21, R93). -/
def registerNames : List (String × RegNum) :=
  [("R0", 0#4), ("R1", 1#4), ("R2", 2#4), ("R3", 3#4), ("R4", 4#4), ("R5", 5#4), ("R6", 6#4), ("R7", 7#4), ("R8", 8#4),
    ("R9", 9#4), ("R10", 10#4), ("R11", 11#4), ("R12", 12#4), ("SP", 13#4), ("LR", 14#4), ("PC", 15#4), ("R13", 13#4),
    ("R14", 14#4), ("R15", 15#4)]

/-! ## Operand checks -/

/-- A 3-bit field takes R0 to R7 only (R81). -/
def lowField (r : RegNum) : Except EncodeErrorKind LowReg :=
  if r.toNat < 8 then .ok (r.setWidth 3) else .error .registerClass

/-- An unsigned immediate of `w` bits, scaled: divisible by the scale, and in range after scaling (R82, R83, R90). -/
def scaledField (w scale : Nat) (v : Int) : Except EncodeErrorKind (BitVec w) :=
  if v % scale ≠ 0 then .error .immediateNotAligned
  else
    match unsignedValue w (v / scale) with
    | some f => .ok f
    | none => .error .immediateTooWide

/-- The shift amount of LSRS and ASRS: 1 to 32, with 32 stored as 0 (R185, R186). -/
def shiftField (v : Int) : Except EncodeErrorKind (BitVec 5) :=
  if v = 32 then .ok 0#5 else if v = 0 then .error .immediateTooWide else scaledField 5 1 v

/-- The address of a label (R84, R89). A name that the table lists twice is taken at its first entry (DESIGN CHOICE, assumption
log 16). -/
def lookupLabel (table : List (String × Word)) (name : String) : Except EncodeErrorKind Word :=
  match table.find? (fun e => e.1 == name) with
  | some e => .ok e.2
  | none => .error .unresolvedLabel

/-- The displacement field of a branch of `w` bits: `(target - (site + 4)) / 2`, even and in range, and zero while there is
no label table (R84). -/
def branchField (w : Nat) (ctx : EncodeContext) (name : String) : Except EncodeErrorKind (BitVec w) :=
  match ctx.labels with
  | none => .ok 0
  | some table =>
    match lookupLabel table name with
    | .error e => .error e
    | .ok target =>
      let offset := (target - (ctx.site + 4#32)).toInt
      if offset % 2 ≠ 0 then .error .immediateNotAligned
      else
        match signedValue w (offset / 2) with
        | some f => .ok f
        | none => .error .immediateTooWide

/-- The field of a literal load or of ADR: `(target - Align(site + 4, 4)) / 4`, the target word-aligned and 0 to 1020 ahead
(R88). -/
def literalField (ctx : EncodeContext) (name : String) : Except EncodeErrorKind (BitVec 8) :=
  match ctx.labels with
  | none => .ok 0
  | some table =>
    match lookupLabel table name with
    | .error e => .error e
    | .ok target => scaledField 8 4 (target - align4 (ctx.site + 4#32)).toNat

/-- The registers that an item of a list names: one register, or those of a range `Ra-Rb` (R86). R86 does not say which way
a range runs: that it runs upwards, `a ≤ b`, and that one written downwards is malformed, is DESIGN CHOICE, assumption log
23. -/
def ListItem.regs : ListItem → Except EncodeErrorKind (List RegNum)
  | .single r => .ok [r]
  | .range a b =>
    if a.toNat ≤ b.toNat then .ok ((List.range (b.toNat - a.toNat + 1)).map fun k => a + BitVec.ofNat 4 k)
    else .error .malformed

/-- The registers of a list, in the order written (R86). -/
def listRegs : List ListItem → Except EncodeErrorKind (List RegNum)
  | [] => .ok []
  | i :: is =>
    match i.regs, listRegs is with
    | .ok a, .ok b => .ok (a ++ b)
    | .error e, _ => .error e
    | _, .error e => .error e

/-- The register-list field and the extra bit: no register twice, only R0 to R7 and `extra`, and not empty (R86, R230).
Neither rule orders these checks: that a list that cannot be read is reported first, then an empty one, then a repeated
register, and only then a forbidden one, so that `R8, R0, R0` is a duplicate, is DESIGN CHOICE, assumption log 6. -/
def listField (extra : RegNum) (items : List ListItem) : Except EncodeErrorKind (Bool × BitVec 8) :=
  match listRegs items with
  | .error e => .error e
  | .ok rs =>
    if rs = [] then .error .malformed
    else if ¬ rs.Nodup then .error .duplicateRegister
    else if rs.all (fun r => r.toNat < 8 || r == extra) then
      .ok (rs.contains extra,
        (rs.filter (fun r => r.toNat < 8)).foldl (fun (l : BitVec 8) r => setBit l r.toNat) 0#8)
    else .error .registerClass

/-! ## The entries -/

/-- Encoding two low registers. -/
def enc2 (r q : RegNum) (f : LowReg → LowReg → Instr) : Except EncodeErrorKind Instr :=
  match lowField r, lowField q with
  | .ok a, .ok b => .ok (f a b)
  | .error e, _ => .error e
  | _, .error e => .error e

/-- Encoding three low registers. -/
def enc3 (r q p : RegNum) (f : LowReg → LowReg → LowReg → Instr) : Except EncodeErrorKind Instr :=
  match lowField r, lowField q, lowField p with
  | .ok a, .ok b, .ok c => .ok (f a b c)
  | .error e, _, _ => .error e
  | _, .error e, _ => .error e
  | _, _, .error e => .error e

/-- Encoding one low register and another field. -/
def enc1F {α : Type} (r : RegNum) (x : Except EncodeErrorKind α) (f : LowReg → α → Instr) :
    Except EncodeErrorKind Instr :=
  match lowField r, x with
  | .ok a, .ok b => .ok (f a b)
  | .error e, _ => .error e
  | _, .error e => .error e

/-- Encoding two low registers and another field. -/
def enc2F {α : Type} (r q : RegNum) (x : Except EncodeErrorKind α) (f : LowReg → LowReg → α → Instr) :
    Except EncodeErrorKind Instr :=
  match lowField r, lowField q, x with
  | .ok a, .ok b, .ok c => .ok (f a b c)
  | .error e, _, _ => .error e
  | _, .error e, _ => .error e
  | _, _, .error e => .error e

/-- The constructor of a conditional branch (R85). -/
def condBranch : Cond → BitVec 8 → Instr
  | .eq => .beq
  | .ne => .bne
  | .cs => .bcs
  | .cc => .bcc
  | .mi => .bmi
  | .pl => .bpl
  | .vs => .bvs
  | .vc => .bvc
  | .hi => .bhi
  | .ls => .bls
  | .ge => .bge
  | .lt => .blt
  | .gt => .bgt
  | .le => .ble
  | .al => .bal

/-- The condition code of a mnemonic, bits 11:8 of the branch (R85, R240). -/
def condCode : Cond → BitVec 4
  | .eq => 0b0000#4
  | .ne => 0b0001#4
  | .cs => 0b0010#4
  | .cc => 0b0011#4
  | .mi => 0b0100#4
  | .pl => 0b0101#4
  | .vs => 0b0110#4
  | .vc => 0b0111#4
  | .hi => 0b1000#4
  | .ls => 0b1001#4
  | .ge => 0b1010#4
  | .lt => 0b1011#4
  | .gt => 0b1100#4
  | .le => 0b1101#4
  | .al => 0b1110#4

/-- The two-operand forms `Rdn, Rm` of the data-processing format. -/
def twoLow (ops : List Operand) (f : LowReg → LowReg → Instr) : List (Except EncodeErrorKind Instr) :=
  match ops with
  | [.reg d, .reg m] => [enc2 d m f]
  | _ => []

/-- The shifts: by an immediate, then by a register, in registration order (R73). -/
def shiftForms (ops : List Operand) (field : Int → Except EncodeErrorKind (BitVec 5))
    (immForm : LowReg → LowReg → BitVec 5 → Instr) (regForm : LowReg → LowReg → Instr) :
    List (Except EncodeErrorKind Instr) :=
  match ops with
  | [.reg d, .reg m, .imm v] => [enc2F d m (field v) immForm]
  | [.reg d, .reg m] => [enc2 d m regForm]
  | _ => []

/-- ADDS and SUBS: register, imm3, imm8, in registration order; the three-operand spelling of the imm8 form needs
`Rd = Rn` (R92). -/
def addForms (ops : List Operand) (regForm : LowReg → LowReg → LowReg → Instr)
    (imm3Form : LowReg → LowReg → BitVec 3 → Instr) (imm8Form : LowReg → BitVec 8 → Instr) :
    List (Except EncodeErrorKind Instr) :=
  match ops with
  | [.reg d, .reg n, .reg m] => [enc3 d n m regForm]
  | [.reg d, .reg n, .imm v] =>
    enc2F d n (scaledField 3 1 v) imm3Form :: if d = n then [enc1F d (scaledField 8 1 v) imm8Form] else []
  | [.reg d, .imm v] => [enc1F d (scaledField 8 1 v) imm8Form]
  | _ => []

/-- The loads and stores that have a register-offset and an immediate-offset form (R200). -/
def memoryForms (ops : List Operand) (scale : Nat) (regForm : LowReg → LowReg → LowReg → Instr)
    (immForm : LowReg → LowReg → BitVec 5 → Instr) : List (Except EncodeErrorKind Instr) :=
  match ops with
  | [.reg t, .memReg n m] => [enc3 t n m regForm]
  | [.reg t, .memImm n v] => [enc2F t n (scaledField 5 scale v) immForm]
  | _ => []

/-- LDR and STR of a word: with the base SP an immediate offset has the syntax of the SP-relative form, and of no other
(R73, R215, R216), so that its checks are those of that form (R82, R83). -/
def wordForms (ops : List Operand) (regForm : LowReg → LowReg → LowReg → Instr)
    (immForm : LowReg → LowReg → BitVec 5 → Instr) (spForm : LowReg → BitVec 8 → Instr) :
    List (Except EncodeErrorKind Instr) :=
  match ops with
  | [.reg t, .memImm n v] =>
    if n = SP then [enc1F t (scaledField 8 4 v) spForm] else [enc2F t n (scaledField 5 4 v) immForm]
  | _ => memoryForms ops 4 regForm immForm

/-- The SP adjustment of ADD and SUB, with the shorthand `ADD SP, #imm` (R92, R144, R145). -/
def spAdjustForms (ops : List Operand) (form : BitVec 7 → Instr) : List (Except EncodeErrorKind Instr) :=
  match ops with
  | [.reg d, .reg n, .imm v] => if d = SP ∧ n = SP then [(scaledField 7 4 v).map form] else []
  | [.reg d, .imm v] => if d = SP then [(scaledField 7 4 v).map form] else []
  | _ => []

/-- The entries whose syntax the mnemonic and the operands have, in registration order, each with what its operand checks
give (R79, R92). RSBS has no immediate field (R72) and takes only `#0` (R138): that another immediate is refused as too wide,
and not as accepted by no entry, is DESIGN CHOICE, assumption log 6. -/
def entries (ctx : EncodeContext) (m : Mnemonic) (ops : List Operand) : List (Except EncodeErrorKind Instr) :=
  match m with
  | .movs =>
    match ops with
    | [.reg d, .reg n] => [enc2 d n .movsReg]
    | [.reg d, .imm v] => [enc1F d (scaledField 8 1 v) .movsImm8]
    | _ => []
  | .lsls => shiftForms ops (scaledField 5 1) .lslsImm .lslsReg
  | .lsrs => shiftForms ops shiftField .lsrsImm .lsrsReg
  | .asrs => shiftForms ops shiftField .asrsImm .asrsReg
  | .adds => addForms ops .addsReg .addsImm3 .addsImm8
  | .subs => addForms ops .subsReg .subsImm3 .subsImm8
  | .cmp =>
    match ops with
    | [.reg n, .imm v] => [enc1F n (scaledField 8 1 v) .cmpImm8]
    | [.reg n, .reg q] => [enc2 n q .cmpReg, .ok (.cmpHi n q)]
    | _ => []
  | .ands => twoLow ops .ands
  | .eors => twoLow ops .eors
  | .adcs => twoLow ops .adcs
  | .sbcs => twoLow ops .sbcs
  | .rors => twoLow ops .rors
  | .tst => twoLow ops .tst
  | .rsbs =>
    match ops with
    | [.reg d, .reg n, .imm v] =>
      [enc2F d n (if v = 0 then .ok () else .error .immediateTooWide) fun a b _ => .rsbs a b]
    | _ => []
  | .cmn => twoLow ops .cmn
  | .orrs => twoLow ops .orrs
  | .muls =>
    match ops with
    | [.reg d, .reg n, .reg e] => if d = e then [enc2 d n .muls] else []
    | [.reg d, .reg n] => [enc2 d n .muls]
    | _ => []
  | .bics => twoLow ops .bics
  | .mvns => twoLow ops .mvns
  | .add =>
    match ops with
    | [.reg d, .reg q] => [.ok (.addHi d q)]
    | [.reg d, .reg n, .imm v] =>
      if d = SP then spAdjustForms ops .addSpImm else if n = SP then [enc1F d (scaledField 8 4 v) .addRdSp] else []
    | _ => spAdjustForms ops .addSpImm
  | .mov =>
    match ops with
    | [.reg d, .reg q] => [.ok (.movHi d q)]
    | _ => []
  | .bx =>
    match ops with
    | [.reg q] => [.ok (.bx q)]
    | _ => []
  | .blx =>
    match ops with
    | [.reg q] => [.ok (.blx q)]
    | _ => []
  | .ldr =>
    match ops with
    | [.reg t, .label l] => [enc1F t (literalField ctx l) .ldrLit]
    | [.reg t, .literal l] => [enc1F t (literalField ctx l) .ldrLit]
    | _ => wordForms ops .ldrReg .ldrImm .ldrSp
  | .str => wordForms ops .strReg .strImm .strSp
  | .strh => memoryForms ops 2 .strhReg .strhImm
  | .strb => memoryForms ops 1 .strbReg .strbImm
  | .ldrh => memoryForms ops 2 .ldrhReg .ldrhImm
  | .ldrb => memoryForms ops 1 .ldrbReg .ldrbImm
  | .ldrsb =>
    match ops with
    | [.reg t, .memReg n q] => [enc3 t n q .ldrsbReg]
    | _ => []
  | .ldrsh =>
    match ops with
    | [.reg t, .memReg n q] => [enc3 t n q .ldrshReg]
    | _ => []
  | .adr =>
    match ops with
    | [.reg d, .label l] => [enc1F d (literalField ctx l) .adr]
    | _ => []
  | .sub => spAdjustForms ops .subSpImm
  | .push =>
    match ops with
    | [.list items] => [(listField LR items).map fun p => .push p.1 p.2]
    | _ => []
  | .pop =>
    match ops with
    | [.list items] => [(listField PC items).map fun p => .pop p.1 p.2]
    | _ => []
  | .bcond c =>
    match ops with
    | [.label l] => [(branchField 8 ctx l).map (condBranch c)]
    | _ => []
  | .bhs =>
    match ops with
    | [.label l] => [(branchField 8 ctx l).map .bcs]
    | _ => []
  | .blo =>
    match ops with
    | [.label l] => [(branchField 8 ctx l).map .bcc]
    | _ => []
  | .b =>
    match ops with
    | [.label l] => [(branchField 11 ctx l).map .b]
    | _ => []
  | .bl =>
    match ops with
    | [.label l] =>
      [(branchField 22 ctx l).map fun f => .bl (f.extractLsb' 21 1) (f.extractLsb' 11 10) (f.extractLsb' 0 11)]
    | _ => []

/-- The operand counts of a mnemonic's entries, with the shorthands of R92 (R80). -/
def operandCounts : Mnemonic → List Nat
  | .lsls | .lsrs | .asrs | .adds | .subs | .muls | .add | .sub => [2, 3]
  | .rsbs => [3]
  | .bx | .blx | .push | .pop | .bcond _ | .bhs | .blo | .b | .bl => [1]
  | _ => [2]

/-- The first entry that accepts (R79). -/
def firstOk : List (Except EncodeErrorKind Instr) → Option Instr
  | [] => none
  | .ok i :: _ => some i
  | .error _ :: l => firstOk l

/-- The kind of error when no entry accepts: a wrong operand count (R80), else what the first entry of that syntax found
(R81 to R88), else a number without `#` (R82), else no entry (R79). DESIGN CHOICE, assumption log 6. -/
def errorKind (m : Mnemonic) (ops : List Operand) (found : List (Except EncodeErrorKind Instr)) : EncodeErrorKind :=
  if ops.length ∉ operandCounts m then .operandCount
  else
    match found with
    | .error e :: _ => e
    | _ => if ops.any Operand.lacksHash then .malformed else .noEntry

/-- The instruction that the encoder selects for a mnemonic and its operands: the first entry, in registration order, that
accepts them (R79), or an instruction error (R89). -/
def assemble (ctx : EncodeContext) (m : Mnemonic) (ops : List Operand) : Except EncodeError Instr :=
  match firstOk (entries ctx m ops) with
  | some i => .ok i
  | none => .error ⟨errorKind m ops (entries ctx m ops), m, ops⟩

/-- `encode(operands, labelOffsets?)`: the halfwords (R78). -/
def assembleOpcode (ctx : EncodeContext) (m : Mnemonic) (ops : List Operand) : Except EncodeError Opcode :=
  (assemble ctx m ops).map encode

/-- The forms whose encoder "declares it needs label offsets", which the linker encodes again after layout (R88): the
branches and the literal loads. ADR, which R88 lets encode a label in the same way, is among them (DEDUCED, assumption log
15). -/
def needsLabelOffsets : Instr → Bool
  | .beq _ | .bne _ | .bcs _ | .bcc _ | .bmi _ | .bpl _ | .bvs _ | .bvc _ | .bhi _ | .bls _ | .bge _ | .blt _ => true
  | .bgt _ | .ble _ | .bal _ | .b _ | .bl _ _ _ | .ldrLit _ _ | .adr _ _ => true
  | .movsReg _ _ | .lslsImm _ _ _ | .lsrsImm _ _ _ | .asrsImm _ _ _ | .addsReg _ _ _ | .subsReg _ _ _ => false
  | .addsImm3 _ _ _ | .subsImm3 _ _ _ | .movsImm8 _ _ | .cmpImm8 _ _ | .addsImm8 _ _ | .subsImm8 _ _ => false
  | .ands _ _ | .eors _ _ | .lslsReg _ _ | .lsrsReg _ _ | .asrsReg _ _ | .adcs _ _ | .sbcs _ _ | .rors _ _ => false
  | .tst _ _ | .rsbs _ _ | .cmpReg _ _ | .cmn _ _ | .orrs _ _ | .muls _ _ | .bics _ _ | .mvns _ _ => false
  | .addHi _ _ | .cmpHi _ _ | .movHi _ _ | .bx _ | .blx _ => false
  | .strReg _ _ _ | .strhReg _ _ _ | .strbReg _ _ _ | .ldrsbReg _ _ _ | .ldrReg _ _ _ | .ldrhReg _ _ _ => false
  | .ldrbReg _ _ _ | .ldrshReg _ _ _ | .strImm _ _ _ | .ldrImm _ _ _ | .strbImm _ _ _ | .ldrbImm _ _ _ => false
  | .strhImm _ _ _ | .ldrhImm _ _ _ | .strSp _ _ | .ldrSp _ _ | .addRdSp _ _ | .addSpImm _ | .subSpImm _ => false
  | .push _ _ | .pop _ _ => false

/-! ## Data directives -/

/-- The data directives (R95). FILL and `%` are SPACE. -/
inductive Directive where
  | dcb (l : List Byte)
  | dcw (l : List Halfword)
  | dcd (l : List Word)
  | space (n : Nat)
  deriving DecidableEq, Repr

/-- The literal bytes a directive expands to (R95). -/
def directiveBytes : Directive → List Byte
  | .dcb l => l
  | .dcw l => l.flatMap halfwordBytes
  | .dcd l => l.flatMap (splitLE 4)
  | .space n => List.replicate n 0#8

end Sys2Proof.Machine
end

