-- ==== Sys2Proof/Machine/Pattern.lean ====
section
/-! DEFINITION. The opcode bit-pattern engine (R62 to R67): patterns, `match`, `create`, `setBits` and `getBits`. -/

namespace Sys2Proof.Machine

/-- One position of a pattern: a fixed bit or a field bit (R62). -/
inductive PatternBit where
  | fixed (b : Bool)
  | any
  deriving DecidableEq, Repr

/-- A pattern, its leftmost position first: in a pattern of 16 positions the first stands for bit 15 (R62). In a shorter
list the first stands for bit `length - 1`, so that the tail of a pattern is again a pattern of the lower bits. -/
abbrev Pattern := List PatternBit

/-- Whether a pattern has the 16 positions that R62 asks for. -/
abbrev validPattern (p : Pattern) : Prop := p.length = 16

/-- Reading a template of `0`, `1` and `X`: any other character, or a length other than 16, is a programming error (R67). -/
def parsePattern (template : String) : Option Pattern :=
  let read (c : Char) : Option PatternBit :=
    if c = '0' then some (.fixed false) else if c = '1' then some (.fixed true)
    else if c = 'X' then some .any else none
  match template.toList.mapM read with
  | some p => if p.length = 16 then some p else none
  | none => none

/-- The pattern of a layout of R73: its letters are field bits (R70, R71). -/
def layoutPattern (layout : String) : Pattern :=
  layout.toList.map fun c => if c = '0' then .fixed false else if c = '1' then .fixed true else .any

/-- The pattern of one field of a layout: the positions of its letter are the `X` positions (R67). -/
def fieldPattern (layout : String) (letter : Char) : Pattern :=
  layout.toList.map fun c => if c = letter then .any else .fixed (c = '1')

/-- The number of `X` positions (R65). -/
def fieldCount : Pattern → Nat
  | [] => 0
  | .any :: p => fieldCount p + 1
  | .fixed _ :: p => fieldCount p

/-- `match(value, pattern)` (R63). -/
def matchPattern (value : Halfword) : Pattern → Bool
  | [] => true
  | .any :: p => matchPattern value p
  | .fixed b :: p => value.getLsbD p.length == b && matchPattern value p

/-- The mask of a pattern: a 1 at every fixed position (R63). -/
def patternMask : Pattern → Halfword
  | [] => 0#16
  | .any :: p => patternMask p
  | .fixed _ :: p => setBit (patternMask p) p.length

/-- `create(pattern)` (R64), which is also the match value of R63: a 1 at every `1` position. -/
def create : Pattern → Halfword
  | [] => 0#16
  | .any :: p => create p
  | .fixed b :: p => if b then setBit (create p) p.length else create p

/-- `setBits(value, pattern, fill)` (R65): the `X` positions take the low bits of `fill` in two's complement, the leftmost
the most significant. -/
def setBits (value : Halfword) (p : Pattern) (fill : Int) : Halfword :=
  match p with
  | [] => value
  | .fixed _ :: p => setBits value p fill
  | .any :: p =>
    let bit := (BitVec.ofInt 16 fill).getLsbD (fieldCount p)
    setBits (if bit then setBit value p.length else clearBit value p.length) p fill

/-- `getBits(value, pattern)` (R66): the `X` bits, the leftmost most significant, as a number. -/
def getBits (value : Halfword) : Pattern → Nat
  | [] => 0
  | .fixed _ :: p => getBits value p
  | .any :: p => (value.getLsbD p.length).toNat * 2 ^ fieldCount p + getBits value p

end Sys2Proof.Machine
end

