-- ==== Sys2Proof/Machine/HostInterface.lean ====
section
/-! DEFINITION. The host interface (R280): the operations by which the owner of the processor loop acts on the core between
cycles, the run-state transitions (R29), the reset (R290) and the image load (R292). -/

namespace Sys2Proof.Machine

/-- A register that the host reads or writes (R38, R280). -/
inductive HostReg where
  | general (r : RegNum)
  | apsr
  deriving DecidableEq, Repr

/-- A segment of the executable image, of kind Load (R292). -/
structure Segment where
  fileOffset : Nat
  size : Nat
  physicalAddress : Word
  deriving DecidableEq, Repr

/-- The executable image (R292). -/
structure Image where
  content : List Byte
  segments : List Segment
  deriving DecidableEq, Repr

/-- The host's operations that act on the core (R280). -/
inductive HostOp where
  | execute
  | halt
  | reset
  | writeReg (r : HostReg) (v : SourceNumber)
  | loadImage (image : Image)
  deriving DecidableEq, Repr

/-- `execute()` (R29, R30, R280): a no-op when already Running, refused while a fault is recorded. -/
def State.hostExecute (s : State) : Host.Outcome State Fault Refusal :=
  if s.run = .running then .next s
  else if s.fault = none then .next { s with run := .running }
  else .refused .executeAfterFault

/-- `halt()` (R29, R280): a no-op when not Running. -/
def State.hostHalt (s : State) : Host.Outcome State Fault Refusal :=
  if s.run = .running then .next s.halt else .next s

/-- `reset()` (R29, R290): refused, with no state change, while Running. -/
def State.hostReset (s : State) : Host.Outcome State Fault Refusal :=
  if s.run = .running then .refused .resetWhileRunning else .next s.afterReset

/-- Reading a register (R38): its value, with no side effect. R15 reads as it is held. -/
def State.hostRead (s : State) : HostReg → Word
  | .general r => s.reg r
  | .apsr => s.apsr

/-- The state in which a register holds a value of the host's (R280): PC holds it with bit 0 cleared. -/
def State.hostSetReg (s : State) (r : HostReg) (v : Word) : State :=
  match r with
  | .general r => s.setReg r (if r = PC then clearBit0 v else v)
  | .apsr => { s with apsr := v }

/-- Writing a register, in Idle only (R280), with a value that its number must be able to construct (R9). That the run state
is checked first is DESIGN CHOICE, assumption log 24. -/
def State.hostWriteReg (s : State) (r : HostReg) (v : SourceNumber) : Host.Outcome State Fault Refusal :=
  if s.run = .idle then
    match binaryValue 32 v with
    | some w => .next (s.hostSetReg r w)
    | none => .fault .rangeError
  else .refused .notIdle

/-- One byte of the image load (R292): read-only regions are written as well, a device takes it unobserved (R54), and an
address of no region is the structural error of R53. -/
def State.loadByte (s : State) (a : Word) (b : Byte) : Except Fault State :=
  match s.region a with
  | some r => .ok (if r.device then s else s.poke a b)
  | none => .error (.hostUnmapped a)

/-- The bytes of a segment, in order (R292). -/
def State.loadBytes : List Byte → Word → State → Except Fault State
  | [], _, s => .ok s
  | b :: bs, a, s =>
    match s.loadByte a b with
    | .ok s1 => State.loadBytes bs (a + 1#32) s1
    | .error f => .error f

/-- The bytes `content[fileOffset .. fileOffset+size-1]` of a segment (R292). -/
def segmentBytes (content : List Byte) (g : Segment) : List Byte := (content.drop g.fileOffset).take g.size

/-- The segments of an image (R292). R292 orders the bytes of one segment, and does not order the segments: that they are
written in the order of the image's list, so that the later one stands where two overlap, is DESIGN CHOICE, assumption log
25. -/
def State.loadSegments (content : List Byte) : List Segment → State → Except Fault State
  | [], s => .ok s
  | g :: gs, s =>
    if g.fileOffset + g.size ≤ content.length then
      match State.loadBytes (segmentBytes content g) g.physicalAddress s with
      | .ok s1 => State.loadSegments content gs s1
      | .error f => .error f
    else .error (.segmentOutsideContent g.fileOffset g.size)

/-- Loading an executable image, in Idle only (R280, R292). -/
def State.hostLoad (s : State) (image : Image) : Host.Outcome State Fault Refusal :=
  if s.run = .idle then
    match State.loadSegments image.content image.segments s with
    | .ok s1 => .next s1
    | .error f => .fault f
  else .refused .notIdle

/-- A host operation (R280). One that is refused, or that fails, has no effect on the core. -/
def hostOp (op : HostOp) (s : State) : Host.Outcome State Fault Refusal :=
  match op with
  | .execute => s.hostExecute
  | .halt => s.hostHalt
  | .reset => s.hostReset
  | .writeReg r v => s.hostWriteReg r v
  | .loadImage image => s.hostLoad image

/-- Reading memory through the contract (R280): the value, zero-extended to a Word, and the state, which differs at most in the
count of draws. R280 names no width: that the host reads in each of the three of R40, with the checks of R44, whose failures
are faults of the host operation, is DESIGN CHOICE, assumption log 14. -/
def State.hostReadMemory (s : State) (w : Width) (a : Word) : Except Fault (Word × State) :=
  match s.memRead .read w a with
  | .ok r => .ok r
  | .error _ => .error (if a.toNat % w.bytes = 0 then .hostUnmapped a else .hostMisaligned a)

/-- Reading one byte of memory through the contract (R280), as a Byte: its value, and the state, which differs at most in the
count of draws. -/
def State.hostReadByte (s : State) (a : Word) : Except Fault (Byte × State) :=
  if s.mapped a then .ok (s.readByte a) else .error (.hostUnmapped a)

/-- Reading the fault record (R280). -/
def State.hostReadFault (s : State) : Option FaultRecord := s.fault

/-- The vector table of an executable image (R50): the initial SP and the initial PC, little-endian. The core does not read
it. -/
def vectorTable : List Byte := splitLE 4 Config.initialSp ++ splitLE 4 Config.codeEntry

end Sys2Proof.Machine
end

