-- ==== Sys2Proof/Machine/OperandText.lean ====
section
/-! DEFINITION. The operand strings of the encoder (R78, R82, R86, R91 to R94): reading a mnemonic and its operand strings,
and encoding from them. Cutting a source line into label, mnemonic, operands and comment is the assembler parser's (R4). What
R91 leaves open of the text is settled as assumption log 18 says. -/

namespace Sys2Proof.Machine

/-! ## Tokens -/

/-- A blank inside an operand: a space or a tab (DESIGN CHOICE, assumption log 18). -/
def isBlank (c : Char) : Bool := c == ' ' || c == '\t'

/-- A token without the blanks around it. -/
def trimBlanks (cs : List Char) : List Char := ((cs.dropWhile isBlank).reverse.dropWhile isBlank).reverse

/-- The pieces of a text between the separators. -/
def splitAtChar (sep : Char) : List Char → List (List Char)
  | [] => [[]]
  | c :: cs =>
    if c = sep then [] :: splitAtChar sep cs
    else
      match splitAtChar sep cs with
      | p :: ps => (c :: p) :: ps
      | [] => [[c]]

/-- The text between an opening and a closing character, if it starts and ends with them. -/
def between (first last : Char) (cs : List Char) : Option (List Char) :=
  match cs with
  | [] => none
  | c :: rest =>
    match rest.reverse with
    | [] => none
    | d :: inner => if c = first ∧ d = last then some inner.reverse else none

/-- The digits of the literals of R82, each at the index of its value: the first ten are the decimal ones. -/
def literalDigits : List Char := "0123456789ABCDEF".toList

/-- The value of a digit, a letter in either case: its place among the digits. -/
def digitValue (c : Char) : Option Nat := literalDigits.idxOf? c.toUpper

/-- The number that digits continue from the value of those before. -/
def digitsValue (base : Nat) : List Char → Nat → Option Nat
  | [], n => some n
  | c :: cs, n =>
    match digitValue c with
    | some d => if d < base then digitsValue base cs (n * base + d) else none
    | none => none

/-- A hexadecimal literal: `0x` and at least one digit (R82). -/
def readHex : List Char → Option Nat
  | '0' :: 'x' :: c :: cs => digitsValue 16 (c :: cs) 0
  | _ => none

/-- A literal, decimal or hexadecimal (R82). -/
def readNatural (cs : List Char) : Option Nat :=
  match readHex cs with
  | some n => some n
  | none => if cs = [] then none else digitsValue 10 cs 0

/-- A literal with at most a minus sign before it (DESIGN CHOICE, assumption log 18): a negative value fits no immediate, so
that it is refused as out of range and not as text. -/
def readNumber : List Char → Option Int
  | '-' :: cs => (readNatural cs).map fun n => -(n : Int)
  | cs => (readNatural cs).map Int.ofNat

/-- A register name or one of its second names, in either case (R91, R93). -/
def readRegister (cs : List Char) : Option RegNum :=
  (registerNames.find? fun e => e.1.toList == cs.map Char.toUpper).map Prod.snd

/-- The characters that no symbol name holds (DESIGN CHOICE, assumption log 18): blanks, brackets, braces, and the marks of
other operands. -/
def isDelimiter (c : Char) : Bool :=
  isBlank c || ['[', ']', Char.ofNat 123, Char.ofNat 125, '#', '=', ',', ';'].contains c

/-- A symbol name: a bare identifier that is no register (R91). -/
def isSymbol (cs : List Char) : Bool :=
  match cs with
  | [] => false
  | c :: _ => !c.isDigit && !cs.any isDelimiter && (readRegister cs).isNone

/-! ## Operands -/

/-- The offset of a memory operand: an immediate, a register, or a number that lacks its `#` (R82, R91). -/
def readOffset (base : RegNum) (cs : List Char) : Option Operand :=
  match cs with
  | '#' :: ds => (readNumber ds).map (.memImm base)
  | _ =>
    match readRegister cs with
    | some r => some (.memReg base r)
    | none => (readNumber cs).map (.memBare base)

/-- A memory operand, from the text inside its brackets: `base`, or `base, offset` (R83, R91). -/
def readMemory (inner : List Char) : Option Operand :=
  match (splitAtChar ',' inner).map trimBlanks with
  | [b] => (readRegister b).map fun r => .memImm r 0
  | [b, o] =>
    match readRegister b with
    | some r => readOffset r o
    | none => none
  | _ => none

/-- An item of a register list: a register, or a range `Ra-Rb` (R86). -/
def readItem (cs : List Char) : Option ListItem :=
  match (splitAtChar '-' cs).map trimBlanks with
  | [a] => (readRegister a).map .single
  | [a, b] =>
    match readRegister a, readRegister b with
    | some r, some q => some (.range r q)
    | _, _ => none
  | _ => none

/-- A register list, from the text inside its braces: items separated by commas, or nothing (R86). -/
def readList (inner : List Char) : Option Operand :=
  if (trimBlanks inner) = [] then some (.list [])
  else ((splitAtChar ',' inner).mapM readItem).map .list

/-- A literal-pool operand, from the text after its `=`: a symbol or a hexadecimal literal (R88, R91). R88 speaks of a 32-bit
value and does not say whether the encoder refuses a wider one: that a hexadecimal literal of any length is read here, and its
width left to the assembler that places the word, is DESIGN CHOICE, assumption log 17. -/
def readLiteral (cs : List Char) : Option Operand :=
  if isSymbol cs || (readHex cs).isSome then some (.literal (String.ofList ('=' :: cs))) else none

/-- An operand from its text without blanks around it: none where a bracket or brace is unmatched, or the text has no syntax
of R91 otherwise. -/
def readToken (cs : List Char) : Option Operand :=
  match cs with
  | '#' :: ds => (readNumber ds).map .imm
  | '=' :: ds => readLiteral (trimBlanks ds)
  | '[' :: _ => (between '[' ']' cs).bind readMemory
  | _ =>
    if cs.head? = some (Char.ofNat 123) then (between (Char.ofNat 123) (Char.ofNat 125) cs).bind readList
    else
      match readRegister cs with
      | some r => some (.reg r)
      | none =>
        match readNumber cs with
        | some v => some (.bare v)
        | none => if isSymbol cs then some (.label (String.ofList cs)) else none

/-- An operand from its string (R78, R91). -/
def readOperand (text : String) : Option Operand := readToken (trimBlanks text.toList)

/-! ## Mnemonics -/

/-- The mnemonics by name (R73, R85, R94). -/
def mnemonicNames : List (String × Mnemonic) :=
  [("MOVS", .movs), ("LSLS", .lsls), ("LSRS", .lsrs), ("ASRS", .asrs), ("ADDS", .adds), ("SUBS", .subs), ("CMP", .cmp),
    ("ANDS", .ands), ("EORS", .eors), ("ADCS", .adcs), ("SBCS", .sbcs), ("RORS", .rors), ("TST", .tst), ("RSBS", .rsbs),
    ("CMN", .cmn), ("ORRS", .orrs), ("MULS", .muls), ("BICS", .bics), ("MVNS", .mvns), ("ADD", .add), ("MOV", .mov),
    ("BX", .bx), ("BLX", .blx), ("LDR", .ldr), ("STR", .str), ("STRH", .strh), ("STRB", .strb), ("LDRSB", .ldrsb),
    ("LDRH", .ldrh), ("LDRB", .ldrb), ("LDRSH", .ldrsh), ("ADR", .adr), ("SUB", .sub), ("PUSH", .push), ("POP", .pop)] ++
  [("BEQ", .bcond .eq), ("BNE", .bcond .ne), ("BCS", .bcond .cs), ("BCC", .bcond .cc), ("BMI", .bcond .mi),
    ("BPL", .bcond .pl), ("BVS", .bcond .vs), ("BVC", .bcond .vc), ("BHI", .bcond .hi), ("BLS", .bcond .ls),
    ("BGE", .bcond .ge), ("BLT", .bcond .lt), ("BGT", .bcond .gt), ("BLE", .bcond .le), ("BAL", .bcond .al),
    ("BHS", .bhs), ("BLO", .blo), ("B", .b), ("BL", .bl)]

/-- A mnemonic from its name, in either case (R91). -/
def readMnemonic (name : String) : Option Mnemonic :=
  (mnemonicNames.find? fun e => e.1.toList == name.toList.map Char.toUpper).map Prod.snd

/-! ## Encoding from strings -/

/-- An instruction error, with the offending mnemonic and operands as they were written (R89). -/
structure InstructionError where
  kind : EncodeErrorKind
  mnemonic : String
  operands : List String
  deriving DecidableEq, Repr

/-- `encode(operands, labelOffsets?)` from strings (R78): a name that no entry accepts (R79), then a wrong operand count,
before anything else is read (R80), then an operand of malformed text (R89), then what the encoder answers for the operands
read. The order is assumption log 6. -/
def encodeText (ctx : EncodeContext) (name : String) (operands : List String) : Except InstructionError Opcode :=
  match readMnemonic name with
  | none => .error ⟨.noEntry, name, operands⟩
  | some m =>
    if operands.length ∉ operandCounts m then .error ⟨.operandCount, name, operands⟩
    else
      match operands.mapM readOperand with
      | none => .error ⟨.malformed, name, operands⟩
      | some ops =>
        match assembleOpcode ctx m ops with
        | .ok op => .ok op
        | .error e => .error ⟨e.kind, name, operands⟩

end Sys2Proof.Machine
end

