-- ==== Sys2Proof/Safety.lean ====
section
/-! DEFINITION. The terms that claims use: the invariant of the machine, the states it can reach, what an instruction leaves
as it was, the loads and stores with their addresses, which instructions write which flags and registers, and what the
encoder takes. -/

namespace Sys2Proof.Machine

/-! ## The invariant -/

/-- What holds between cycles: PC is even (R31), memory is in its canonical form, a recorded fault goes with Halted (R30,
R264), and the PC-write mark of the cycle is clear (R100). -/
abbrev Inv (s : State) : Prop :=
  s.pc.getLsbD 0 = false ∧ s.mem.wf ∧ (s.fault ≠ none → s.run = .halted) ∧ s.wrotePC = false

/-- Two regions that share no address. -/
abbrev Region.disjoint (r q : Region) : Prop :=
  r.base.toNat + r.size ≤ q.base.toNat ∨ q.base.toNat + q.size ≤ r.base.toNat

/-- A valid MEMMAP (R51): disjoint regions inside the address space, one of them covering the start of the image's code and
one covering RAM_ORIGIN. -/
abbrev MemMap.valid (m : MemMap) : Prop :=
  m.Pairwise Region.disjoint ∧ (∀ r ∈ m, r.base.toNat + r.size ≤ 2 ^ 32) ∧
    (regionAt m Config.flashOrigin).isSome ∧ (regionAt m Config.ramOrigin).isSome

/-- The states the machine reaches from its reset state by ticks and by host operations between them (R109, R280). -/
inductive Reachable (p : Params) : State → Prop where
  | start : Reachable p (State.resetWith p)
  | tick {s t : State} : Reachable p s → step s = .next t → Reachable p t
  | host {s t : State} (op : HostOp) : Reachable p s → hostOp op s = .next t → Reachable p t

/-- The states reached from a state by ticks and by host operations other than `reset()` (R30). -/
inductive ReachableNoReset (s : State) : State → Prop where
  | start : ReachableNoReset s s
  | tick {t u : State} : ReachableNoReset s t → step t = .next u → ReachableNoReset s u
  | host {t u : State} (op : HostOp) : ReachableNoReset s t → op ≠ .reset → hostOp op t = .next u → ReachableNoReset s u

/-- The address of the faulting instruction, which every fault record holds (R260). -/
def FaultRecord.address : FaultRecord → Word
  | .undefinedInstruction a _ _ => a
  | .alignmentFault a _ _ _ => a
  | .memoryFault a _ _ _ => a
  | .unpredictable a _ => a

/-! ## What stays as it was -/

/-- Every register but the listed ones holds what it held. -/
def regsKept (except : List RegNum) (s t : State) : Prop := ∀ r, r ∉ except → t.reg r = s.reg r

/-- Every address reads as before: what memory holds at it is the same byte, or a draw as before. -/
def memKept (s t : State) : Prop := ∀ a, t.peek a = s.peek a

/-- The run state, the fault record and the parameters are as before. -/
def controlKept (s t : State) : Prop := t.run = s.run ∧ t.fault = s.fault ∧ t.params = s.params

/-- Bits 27 to 0 of APSR are as before (R25). -/
def apsrLowKept (s t : State) : Prop := t.apsr.extractLsb' 0 28 = s.apsr.extractLsb' 0 28

/-- The flags, one by one; bits 27 to 0 of APSR are as before. -/
def flagsAre (s t : State) (n z c v : Bool) : Prop :=
  t.flagN = n ∧ t.flagZ = z ∧ t.flagC = c ∧ t.flagV = v ∧ apsrLowKept s t

/-- Everything but the listed registers and APSR: the other registers, PC among them unless listed, all of memory, the
run state, the fault record, the parameters, the PC-write mark and the count of draws. -/
def restKept (except : List RegNum) (s t : State) : Prop :=
  regsKept except s t ∧ memKept s t ∧ controlKept s t ∧ t.wrotePC = s.wrotePC ∧ t.draws = s.draws

/-! ## Loads and stores -/

/-- The loads: the register loaded, the width, and the effective address, as their meanings compute it (R201 to R217). -/
def loadOf (i : Instr) (s : State) : Option (LowReg × Width × Word) :=
  match i with
  | .ldrImm rt rn imm5 => some (rt, .word, s.addrWord rn imm5)
  | .ldrbImm rt rn imm5 => some (rt, .byte, s.addrByte rn imm5)
  | .ldrhImm rt rn imm5 => some (rt, .half, s.addrHalf rn imm5)
  | .ldrReg rt rn rm => some (rt, .word, s.addrReg rn rm)
  | .ldrbReg rt rn rm => some (rt, .byte, s.addrReg rn rm)
  | .ldrhReg rt rn rm => some (rt, .half, s.addrReg rn rm)
  | .ldrsbReg rt rn rm => some (rt, .byte, s.addrReg rn rm)
  | .ldrshReg rt rn rm => some (rt, .half, s.addrReg rn rm)
  | .ldrSp rt imm8 => some (rt, .word, s.addrSp imm8)
  | .ldrLit rt imm8 => some (rt, .word, s.addrPc imm8)
  | _ => none

/-- The single stores: the register stored, the width, and the effective address, as their meanings compute it (R202 to
R216). -/
def storeOf (i : Instr) (s : State) : Option (LowReg × Width × Word) :=
  match i with
  | .strImm rt rn imm5 => some (rt, .word, s.addrWord rn imm5)
  | .strbImm rt rn imm5 => some (rt, .byte, s.addrByte rn imm5)
  | .strhImm rt rn imm5 => some (rt, .half, s.addrHalf rn imm5)
  | .strReg rt rn rm => some (rt, .word, s.addrReg rn rm)
  | .strbReg rt rn rm => some (rt, .byte, s.addrReg rn rm)
  | .strhReg rt rn rm => some (rt, .half, s.addrReg rn rm)
  | .strSp rt imm8 => some (rt, .word, s.addrSp imm8)
  | _ => none

/-- The address of byte `k` of an access. -/
def byteAddr (ea : Word) (k : Nat) : Word := ea + BitVec.ofNat 32 k

/-- Byte `k` of a Word (R42). -/
def byteOf (v : Word) (k : Nat) : Byte := v.extractLsb' (8 * k) 8

/-- What reading one byte answers between `s` and `t`: the byte that RAM or flash holds, or else one of the draws taken in
between (R44, R54, R55). -/
def readsByte (s t : State) (a : Word) (b : Byte) : Prop :=
  if s.plain a = true ∧ s.peek a ≠ none then s.peek a = some b
  else ∃ n, s.draws ≤ n ∧ n < t.draws ∧ b = Config.drawByte n

/-- Memory in RAM or flash holds this word at an address: its four bytes, the low one first (R42). -/
def holdsWord (s : State) (a v : Word) : Prop :=
  ∀ k < 4, s.plain (byteAddr a k) = true ∧ s.peek (byteAddr a k) = some (byteOf v k)

/-- The byte at an address after a core write of `b` to it: dropped where the region is read-only or a device's (R52,
R54). -/
def writtenByte (s : State) (a : Word) (b : Byte) : Option Byte := if s.writable a then some b else s.peek a

/-- The words of an instruction: the encoder writes them and the decoder reads the instruction from them. -/
def hasWord (i : Instr) (op : Opcode) : Prop := encode i = op ∧ decode op = .ok i

/-! ## What an instruction does, in the terms of the rules -/

/-- The carry of a sum: the exact unsigned sum exceeds 32 bits (R120, R121). -/
def sumCarry (a b : Word) (cin : Bool) : Bool := decide (2 ^ 32 ≤ a.toNat + b.toNat + cin.toNat)

/-- The signed overflow of a sum: the exact signed sum is no 32-bit value (R120). -/
def sumOverflow (a b : Word) (cin : Bool) : Bool :=
  decide (a.toInt + b.toInt + cin.toNat < -2 ^ 31 ∨ 2 ^ 31 ≤ a.toInt + b.toInt + cin.toNat)

/-- No borrow: the carry of a difference (R122). -/
def noBorrow (a b : Word) : Bool := decide (b.toNat ≤ a.toNat)

/-- The signed overflow of a difference: the exact signed difference is no 32-bit value (R122). -/
def differenceOverflow (a b : Word) : Bool := decide (a.toInt - b.toInt < -2 ^ 31 ∨ 2 ^ 31 ≤ a.toInt - b.toInt)

/-- The instruction completes: it writes a result to one low register, with N and Z from the result and the stated C and
V, and leaves everything else as it was. -/
def computes (i : Instr) (s : State) (rd : LowReg) (r : Word) (c v : Bool) : Prop :=
  ∃ t, exec i s = .next t ∧ t.reg (low rd) = r ∧ flagsAre s t r.msb (r == 0#32) c v ∧ restKept [low rd] s t

/-- The instruction completes: it writes the four flags only, N and Z from a value that it discards. -/
def compares (i : Instr) (s : State) (r : Word) (c v : Bool) : Prop :=
  ∃ t, exec i s = .next t ∧ flagsAre s t r.msb (r == 0#32) c v ∧ restKept [] s t

/-- The instruction completes: it writes one register other than PC, and no flag. -/
def sets (i : Instr) (s : State) (rd : RegNum) (r : Word) : Prop :=
  ∃ t, exec i s = .next t ∧ t.reg rd = r ∧ t.apsr = s.apsr ∧ restKept [rd] s t

/-- The instruction completes with a PC write of `target`, which stores it with bit 0 cleared and sets the mark of the cycle
(R106), and changes nothing else but the listed registers. -/
def jumps (i : Instr) (s t : State) (target : Word) (except : List RegNum) : Prop :=
  exec i s = .next t ∧ t.reg PC = (target >>> 1) <<< 1 ∧ t.wrotePC = true ∧ t.apsr = s.apsr ∧
    regsKept (PC :: except) s t ∧ memKept s t ∧ controlKept s t ∧ t.draws = s.draws

/-- The instruction is a conditional branch: it jumps when the condition holds, and changes nothing when it does not. -/
def branches (i : Instr) (s : State) (passes : Prop) (offset : Word) : Prop :=
  (passes → ∃ t, jumps i s t (s.reg PC + 4#32 + offset) []) ∧ (¬ passes → exec i s = .next s)

/-- A loaded value of a width, sign-extended or zero-extended to 32 bits (R12, R200). -/
def extended (signed : Bool) (w : Width) (v : Word) : Word :=
  if signed ∧ v.getLsbD (8 * w.bytes - 1) = true then v - BitVec.ofNat 32 (2 ^ (8 * w.bytes)) else v

/-- The instruction loads: where the access is aligned and mapped it completes, Rt holds the extended value of the bytes
read, and everything else is as it was but for the count of draws, which changes only where a byte is not held (R200). -/
def loads (i : Instr) (s : State) (rt : LowReg) (w : Width) (signed : Bool) (ea : Word) : Prop :=
  ea.toNat % w.bytes = 0 → (∀ k < w.bytes, s.mapped (byteAddr ea k) = true) →
    ∃ t v, exec i s = .next t ∧ v.toNat < 2 ^ (8 * w.bytes) ∧
      (∀ k < w.bytes, readsByte s t (byteAddr ea k) (byteOf v k)) ∧ t.reg (low rt) = extended signed w v ∧
      t.apsr = s.apsr ∧ regsKept [low rt] s t ∧ memKept s t ∧ controlKept s t ∧ t.wrotePC = s.wrotePC ∧
      ((∀ k < w.bytes, s.plain (byteAddr ea k) = true ∧ s.peek (byteAddr ea k) ≠ none) → t.draws = s.draws)

/-- The instruction stores: where the access is aligned and mapped it completes, the low bytes of Rt stand at the effective
address, unless they are dropped, and everything else is as it was (R200). -/
def stores (i : Instr) (s : State) (rt : LowReg) (w : Width) (ea : Word) : Prop :=
  ea.toNat % w.bytes = 0 → (∀ k < w.bytes, s.mapped (byteAddr ea k) = true) →
    ∃ t, exec i s = .next t ∧
      (∀ k < w.bytes, t.peek (byteAddr ea k) = writtenByte s (byteAddr ea k) (byteOf (s.reg (low rt)) k)) ∧
      (∀ x, (∀ k < w.bytes, x ≠ byteAddr ea k) → t.peek x = s.peek x) ∧
      t.apsr = s.apsr ∧ regsKept [] s t ∧ controlKept s t ∧ t.wrotePC = s.wrotePC ∧ t.draws = s.draws

/-! ## Register lists -/

/-- How many low registers below `n` a register list holds (R230). -/
def listedBelow (list : BitVec 8) (n : Nat) : Nat := ((List.range n).filter fun k => list.getLsbD k).length

/-- The number of registers transferred: the 1 bits of the list, and LR or PC (R230). -/
def listCount (extra : Bool) (list : BitVec 8) : Nat := listedBelow list 8 + extra.toNat

/-- The address of word `j` of a block. -/
def wordAddr (base : Word) (j : Nat) : Word := base + BitVec.ofNat 32 (4 * j)

/-- The lowest address of a PUSH of `n` words (R231). -/
def pushAddr (s : State) (n : Nat) : Word := s.reg SP - BitVec.ofNat 32 (4 * n)

/-- The blocks of PUSH and POP: what their accesses are for, the lowest address, and the number of words (R231, R232). -/
def blockOf (i : Instr) (s : State) : Option (Access × Word × Nat) :=
  match i with
  | .push lr list => some (.write, pushAddr s (listCount lr list), listCount lr list)
  | .pop pc list => some (.read, s.reg SP, listCount pc list)
  | _ => none

/-- Every byte of `n` words from an address up is mapped. -/
def blockMapped (s : State) (base : Word) (n : Nat) : Prop := ∀ k < 4 * n, s.mapped (byteAddr base k) = true

/-- The word at an address is what a core write of `v` leaves there (R45). -/
def wordWritten (s t : State) (a v : Word) : Prop :=
  ∀ k < 4, t.peek (byteAddr a k) = writtenByte s (byteAddr a k) (byteOf v k)

/-- The word at an address is as it was. -/
def wordKept (s t : State) (a : Word) : Prop := ∀ k < 4, t.peek (byteAddr a k) = s.peek (byteAddr a k)

/-- The word that a read at an address answers between `s` and `t` (R44). -/
def readsWord (s t : State) (a v : Word) : Prop := ∀ k < 4, readsByte s t (byteAddr a k) (byteOf v k)

/-- Word `j` of a PUSH: the listed low registers ascending, then LR (R231). -/
def pushedWord (s : State) (lr : Bool) (list : BitVec 8) (j : Nat) (v : Word) : Prop :=
  (∃ r : LowReg, list.getLsbD r.toNat = true ∧ listedBelow list r.toNat = j ∧ v = s.reg (low r)) ∨
    (lr = true ∧ j = listedBelow list 8 ∧ v = s.reg LR)

/-- The states that differ at most in bits 27 to 0 of APSR. -/
def sameButApsrLow (s t : State) : Prop := ∃ lo : BitVec 28, t = { s with apsr := (s.apsr.extractLsb' 28 4 ++ lo).setWidth 32 }

/-! ## What the encoder takes -/

/-- The encoder takes the operands exactly when the registers of 3-bit fields among them are R0 to R7, and otherwise answers
the error of the register class (R81). -/
def encodesRegisters (ctx : EncodeContext) (m : Mnemonic) (ops : List Operand) (fields : List RegNum) (i : Instr) : Prop :=
  assemble ctx m ops = if ∃ r ∈ fields, 8 ≤ r.toNat then .error ⟨.registerClass, m, ops⟩ else .ok i

/-- The encoder takes the operands exactly when the registers of 3-bit fields among them are R0 to R7, the value is a multiple
of the scale, and it is in the range of the form; otherwise it answers the error of the register class, the alignment error,
or that the immediate is too wide (R81, R82, R83). -/
def encodesImmediate (ctx : EncodeContext) (m : Mnemonic) (ops : List Operand) (fields : List RegNum)
    (scale least most v : Int) (i : Instr) : Prop :=
  assemble ctx m ops =
    if ∃ r ∈ fields, 8 ≤ r.toNat then .error ⟨.registerClass, m, ops⟩
    else if v % scale ≠ 0 then .error ⟨.immediateNotAligned, m, ops⟩
    else if least ≤ v ∧ v ≤ most then .ok i
    else .error ⟨.immediateTooWide, m, ops⟩

/-- The low register of a 3-bit field that holds a register number. -/
def lowOf (r : RegNum) : LowReg := r.setWidth 3

/-! ## Which instructions write what -/

/-- The instructions that write no flag (R26). -/
def writesNoFlag : Instr → Bool
  | .addHi _ _ | .addRdSp _ _ | .addSpImm _ | .subSpImm _ | .adr _ _ | .movHi _ _ => true
  | .ldrImm _ _ _ | .ldrbImm _ _ _ | .ldrhImm _ _ _ | .ldrReg _ _ _ | .ldrbReg _ _ _ | .ldrhReg _ _ _ => true
  | .ldrsbReg _ _ _ | .ldrshReg _ _ _ | .ldrSp _ _ | .ldrLit _ _ => true
  | .strImm _ _ _ | .strbImm _ _ _ | .strhImm _ _ _ | .strReg _ _ _ | .strbReg _ _ _ | .strhReg _ _ _ => true
  | .strSp _ _ | .push _ _ | .pop _ _ => true
  | .beq _ | .bne _ | .bcs _ | .bcc _ | .bmi _ | .bpl _ | .bvs _ | .bvc _ | .bhi _ | .bls _ | .bge _ | .blt _ => true
  | .bgt _ | .ble _ | .bal _ | .b _ | .bl _ _ _ | .bx _ | .blx _ => true
  | _ => false

/-- The instructions that write N and Z and keep C and V (R26). -/
def writesNZOnly : Instr → Bool
  | .ands _ _ | .eors _ _ | .orrs _ _ | .bics _ _ | .mvns _ _ | .tst _ _ => true
  | .movsImm8 _ _ | .movsReg _ _ | .muls _ _ => true
  | _ => false

/-- The shifts and the rotate, which write N, Z and C and keep V (R26). -/
def writesNZC : Instr → Bool
  | .lslsImm _ _ _ | .lsrsImm _ _ _ | .asrsImm _ _ _ => true
  | .lslsReg _ _ | .lsrsReg _ _ | .asrsReg _ _ | .rors _ _ => true
  | _ => false

/-- The forms that can write PC (R106). -/
def canWritePC : Instr → Bool
  | .beq _ | .bne _ | .bcs _ | .bcc _ | .bmi _ | .bpl _ | .bvs _ | .bvc _ | .bhi _ | .bls _ | .bge _ | .blt _ => true
  | .bgt _ | .ble _ | .bal _ | .b _ | .bl _ _ _ | .bx _ | .blx _ => true
  | .pop pc _ => pc
  | .addHi rdn _ => rdn == PC
  | .movHi rd _ => rd == PC
  | _ => false

/-- The forms that can write SP (R32). -/
def canWriteSP : Instr → Bool
  | .push _ _ | .pop _ _ | .addSpImm _ | .subSpImm _ => true
  | .addHi rdn _ => rdn == SP
  | .movHi rd _ => rd == SP
  | _ => false

/-- The forms that can write LR (R33). -/
def canWriteLR : Instr → Bool
  | .bl _ _ _ | .blx _ => true
  | .addHi rdn _ => rdn == LR
  | .movHi rd _ => rd == LR
  | _ => false

/-- The forms that can write memory. -/
def canWriteMemory : Instr → Bool
  | .strImm _ _ _ | .strbImm _ _ _ | .strhImm _ _ _ | .strReg _ _ _ | .strbReg _ _ _ | .strhReg _ _ _ => true
  | .strSp _ _ | .push _ _ => true
  | _ => false

end Sys2Proof.Machine
end

