-- ==== Sys2Proof/Certificates/Slice0/Obligations.lean ====
section
/-! DEFINITION. The statements for the provers. Each docstring names the rules of the spec that a statement formalises, or
says that it rests on a choice of the model. -/

open Sys2Proof Sys2Proof.Machine

/-! ## Encoding and decoding -/

/-- Decoding the words of a well-formed instruction gives the instruction back, with every operand at every value. -/
def Obligations.DecodeOfEncode : Prop := ∀ i : Instr, i.wf = true → decode (encode i) = .ok i

/-- An opcode that decodes is the words of the instruction it decodes to, and that instruction is well formed: no bit of an
encoding is dropped. -/
def Obligations.EncodeOfDecode : Prop :=
  ∀ (op : Opcode) (i : Instr), decode op = .ok i → encode i = op ∧ i.wf = true

/-- The bytes of a well-formed instruction, low byte first and first halfword first, decode to it, and the bytes that follow
are left over (R42, R43, R68, R69). -/
def Obligations.DecodeBytesOfEncode : Prop :=
  ∀ (i : Instr) (rest : List Byte), i.wf = true → decodeBytes ((encode i).bytes ++ rest) = .ok (i, rest)

/-- R75: the undefined first halfwords are those of the list, a pair is undefined exactly when its second halfword does not
start with 11111, and the cycle that fetches an undefined opcode raises UndefinedInstruction with its halfwords and leaves
registers, APSR, memory and the parameters as they were. -/
def Obligations.UndefinedEncodings : Prop :=
  (∀ h1 : Halfword, startsPair h1 = false →
    ((∃ r, decode (.one h1) = .error r) ↔
      (0x4700 ≤ h1.toNat ∧ h1.toNat ≤ 0x47FF ∧ h1.toNat % 8 ≠ 0) ∨ (0xB100 ≤ h1.toNat ∧ h1.toNat ≤ 0xB3FF) ∨
      (0xB600 ≤ h1.toNat ∧ h1.toNat ≤ 0xBBFF) ∨ (0xBE00 ≤ h1.toNat ∧ h1.toNat ≤ 0xBFFF) ∨
      (0xC000 ≤ h1.toNat ∧ h1.toNat ≤ 0xCFFF) ∨ (0xDF00 ≤ h1.toNat ∧ h1.toNat ≤ 0xDFFF) ∨
      (0xE800 ≤ h1.toNat ∧ h1.toNat ≤ 0xEFFF) ∨ (0xF800 ≤ h1.toNat ∧ h1.toNat ≤ 0xFFFF))) ∧
  (∀ h1 h2 : Halfword, startsPair h1 = true →
    ((∃ r, decode (.two h1 h2) = .error r) ↔ h2.toNat / 2 ^ 11 ≠ 0b11111)) ∧
  (∀ (s s1 : State) (op : Opcode), s.driven = true → s.atHaltAddr = false → s.beginCycle.fetchOp = (s1, .ok op) →
    (∃ r, decode op = .error r) →
    ∃ t, step s = .next t ∧ t.run = .halted ∧
      t.fault = some (match op with
        | .one h1 => .undefinedInstruction s.pc h1 none
        | .two h1 h2 => .undefinedInstruction s.pc h1 (some h2)) ∧
      t.regs = s.regs ∧ t.apsr = s.apsr ∧ t.mem = s.mem ∧ t.params = s.params)

/-- R63: a halfword matches a pattern exactly when every fixed position agrees with its bit, which is the mask and match
form; and every row of the catalog accepts exactly the halfwords that match its layout. -/
def Obligations.MatchIsMaskAndBits : Prop :=
  (∀ (p : Pattern) (v : Halfword), validPattern p →
    (matchPattern v p = true ↔ ∀ i < 16, ∀ b, p[i]? = some (.fixed b) → v.getLsbD (15 - i) = b) ∧
    (matchPattern v p = true ↔ v &&& patternMask p = create p) ∧
    (∀ i < 16, (patternMask p).getLsbD (15 - i) = decide (p[i]? ≠ some .any)) ∧
    (∀ i < 16, (create p).getLsbD (15 - i) = decide (p[i]? = some (.fixed true)))) ∧
  (∀ r ∈ catalog, ∀ h : Halfword, r.accepts h = matchPattern h (layoutPattern r.layout))

/-- R64 to R67: `create` has a 1 at every 1 position and no other, and matches its own pattern; `setBits` replaces the X
positions by the low bits of the fill, the leftmost the most significant, and no other, so that a fill counts modulo `2^k`;
`getBits` reads them back in the same order and undoes `setBits`; a template of another length or with another character is
refused. -/
def Obligations.PatternEngine : Prop :=
  (∀ (p : Pattern) (v : Halfword) (fill : Int), validPattern p →
    (∀ i < 16, (create p).getLsbD (15 - i) = decide (p[i]? = some (.fixed true))) ∧
    matchPattern (create p) p = true ∧
    (∀ i < 16, (setBits v p fill).getLsbD (15 - i) =
      if p[i]? = some .any then (BitVec.ofInt 16 fill).getLsbD (fieldCount (p.drop (i + 1))) else v.getLsbD (15 - i)) ∧
    setBits v p fill = setBits v p (fill % 2 ^ fieldCount p) ∧
    getBits v p < 2 ^ fieldCount p ∧
    (∀ i < 16, p[i]? = some .any → (getBits v p).testBit (fieldCount (p.drop (i + 1))) = v.getLsbD (15 - i)) ∧
    (0 ≤ fill → fill < 2 ^ fieldCount p → (getBits (setBits (create p) p fill) p : Int) = fill)) ∧
  (∀ template : String, (parsePattern template).isSome = true ↔
    template.toList.length = 16 ∧ ∀ c ∈ template.toList, c = '0' ∨ c = '1' ∨ c = 'X')

/-- R74: decoding takes the first row that matches, for BL both halfwords must match, the only overlap among the rows is
row 1 inside row 2 with imm5 = 0, and there both rows have the same effect. -/
def Obligations.DecodeOrder : Prop :=
  (∀ (h : Halfword) (i : Instr), decode (.one h) = .ok i ↔
    ∃ (k : Nat) (r : CatalogRow), catalog[k]? = some r ∧ r.accepts h = true ∧ i = r.build h ∧
      ∀ j < k, ∀ q : CatalogRow, catalog[j]? = some q → q.accepts h = false) ∧
  (∀ h1 h2 : Halfword, (∃ i, decode (.two h1 h2) = .ok i) ↔ h1.toNat / 2 ^ 11 = 0b11110 ∧ h2.toNat / 2 ^ 11 = 0b11111) ∧
  (∀ (j k : Nat) (q r : CatalogRow) (h : Halfword), j < k → catalog[j]? = some q → catalog[k]? = some r →
    q.accepts h = true → r.accepts h = true →
    q.form = "MOVS_reg" ∧ r.form = "LSLS_imm" ∧ (field h 6 5) = 0#5 ∧ ∀ s, exec (q.build h) s = exec (r.build h) s)

/-- Words written out from the layouts of R73, one of each family, decode to their instructions. -/
def Obligations.DecodedWords : Prop :=
  decode (.one 0b0001100_010_001_000#16) = .ok (.addsReg 0#3 1#3 2#3) ∧
  decode (.one 0b0100001100_001_000#16) = .ok (.orrs 0#3 1#3) ∧
  decode (.one 0b00001_00000_001_000#16) = .ok (.lsrsImm 0#3 1#3 0#5) ∧
  decode (.one 0b01101_00001_010_001#16) = .ok (.ldrImm 1#3 2#3 1#5) ∧
  decode (.one 0b1011010_1_00010000#16) = .ok (.push true 0b00010000#8) ∧
  decode (.one 0b1101_0000_00000010#16) = .ok (.beq 2#8) ∧
  decode (.two 0b11110_0_0000000000#16 0b11111_00001111010#16) = .ok (.bl 0#1 0#10 0x7A#11) ∧
  decode (.one 0b0000000000_010_001#16) = .ok (.movsReg 1#3 2#3)

/-! ## The cycle -/

/-- R100: where the bytes at PC are held and decode, a step is the execute step of the decoded instruction, with the mark of
the cycle clear, and then: after a fault nothing more; after a PC write the write stands and the mark is cleared; otherwise
PC advances by the length. That the mark is cleared again at the end is the model's choice (assumption log 12). -/
def Obligations.StepRunsDecodedInstruction : Prop :=
  ∀ (s : State) (op : Opcode) (i : Instr), s.driven = true → s.atHaltAddr = false → s.pc.getLsbD 0 = false →
    decode op = .ok i →
    (∀ k < op.len, s.plain (byteAddr s.pc k) = true ∧ s.peek (byteAddr s.pc k) = op.bytes[k]?) →
    ∀ t, exec i { s with wrotePC := false } = .next t →
      step s = .next
        (if t.fault ≠ none then t
         else if t.wrotePC = true then { t with wrotePC := false }
         else t.setReg PC (t.reg PC + BitVec.ofNat 32 op.len))

/-- Every instruction and every step has a next state: the model stops nowhere, and a fault of the core is a next state
(the model's reading of R264: assumption log 7). -/
def Obligations.NothingStopsTheModel : Prop :=
  (∀ (i : Instr) (s : State), ∃ t, exec i s = .next t) ∧ (∀ s : State, ∃ t, step s = .next t)

/-- R28 and R297: in Idle and Halted no cycle is driven and nothing changes; at HALT_ADDR the core halts without a cycle and
nothing else changes; with no HALT_ADDR only a fault takes a running core out of Running in a step. What a tick
does outside Running is the model's reading (assumption log 8). -/
def Obligations.EndOfRun : Prop :=
  (∀ s : State, s.run ≠ .running → step s = .next s) ∧
  (∀ s : State, s.run = .running → s.fault = none → s.params.haltAddr = some (s.reg PC) →
    step s = .next { s with run := .halted }) ∧
  (∀ s t : State, s.run = .running → s.params.haltAddr = none → step s = .next t → t.run ≠ .running → t.fault ≠ none)

/-- A store is seen by the fetch of the very next cycle: after a store of a word or halfword into writable memory, the fetch
of a halfword of it reads what was stored, and takes no draw (R60, R295). -/
def Obligations.StoresAreSeenByFetch : Prop :=
  ∀ (i : Instr) (s t : State) (rt : LowReg) (w : Width) (ea : Word) (k : Nat), storeOf i s = some (rt, w, ea) →
    ea.toNat % w.bytes = 0 → (∀ j < w.bytes, s.writable (byteAddr ea j) = true) → exec i s = .next t →
    (k = 0 ∨ k = 2) → k + 2 ≤ w.bytes →
    t.fetchHalf (byteAddr ea k) = .ok ((s.reg (low rt)).extractLsb' (8 * k) 16, t)

/-! ## Invariants -/

/-- A step keeps the invariant: PC even, memory in its canonical form, a recorded fault only while Halted, and the PC-write
mark clear between cycles (R30, R31, R264; for the form of memory and the mark, the model's choices: assumption logs 2 and
12). -/
def Obligations.StepKeepsInv : Prop := ∀ s t : State, Inv s → step s = .next t → Inv t

/-- The reset state has the invariant, for every value of the parameters. -/
def Obligations.ResetHasInv : Prop := ∀ p : Params, Inv (State.resetWith p)

/-- A host operation keeps the invariant (R280). -/
def Obligations.HostKeepsInv : Prop := ∀ (op : HostOp) (s t : State), Inv s → hostOp op s = .next t → Inv t

/-- R48: with PC even, a fetch never raises AlignmentFault. -/
def Obligations.FetchIsAligned : Prop :=
  ∀ (s t : State) (a ea : Word) (w : Width), s.pc.getLsbD 0 = false → s.fault = none → step s = .next t →
    t.fault ≠ some (.alignmentFault a ea w .fetch)

/-! ## Reset and the host -/

/-- R37: the reset values, for every value of RESET_SP. -/
def Obligations.ResetValues : Prop :=
  ∀ p : Params, let s := State.resetWith p
    (∀ r : RegNum, r.toNat ≤ 12 → s.reg r = 0#32) ∧ s.reg SP = p.resetSp ∧ s.reg LR = 0#32 ∧ s.reg PC = 0x08000008#32 ∧
      s.apsr = 0#32 ∧ s.run = .idle ∧ s.fault = none ∧ State.reset.reg SP = 0x20002000#32

/-- R290: `reset()` is refused while Running, and otherwise leaves the reset values and a memory in which every byte reads
as a draw. -/
def Obligations.ResetOperation : Prop :=
  (∀ s : State, s.run = .running → ∃ r, s.hostReset = .refused r) ∧
  (∀ s : State, s.run ≠ .running → ∃ t, s.hostReset = .next t ∧ (∀ a, t.peek a = none) ∧
    (∀ r : RegNum, r.toNat ≤ 12 → t.reg r = 0#32) ∧ t.reg LR = 0#32 ∧ t.reg SP = s.params.resetSp ∧
    t.reg PC = 0x08000008#32 ∧ t.apsr = 0#32 ∧ t.fault = none ∧ t.run = .idle ∧ t.params = s.params)

/-- R29: the transitions of the run state that the host drives, and that they change nothing else. -/
def Obligations.RunStateTransitions : Prop :=
  (∀ s : State, s.run = .running → s.hostExecute = .next s) ∧
  (∀ s : State, s.run ≠ .running → s.fault = none → s.hostExecute = .next { s with run := .running }) ∧
  (∀ s : State, s.run ≠ .running → s.fault ≠ none → ∃ r, s.hostExecute = .refused r) ∧
  (∀ s : State, s.run = .running → s.hostHalt = .next { s with run := .halted }) ∧
  (∀ s : State, s.run ≠ .running → s.hostHalt = .next s) ∧
  (∀ s : State, s.run = .running → ∃ r, s.hostReset = .refused r) ∧
  (∀ s : State, s.run ≠ .running → s.hostReset = .next s.afterReset ∧ s.afterReset.run = .idle)

/-- R30: a halted core with a fault recorded never changes again, whatever ticks and host operations follow, before a
`reset()`. -/
def Obligations.FaultedCoreStaysHalted : Prop :=
  ∀ s t : State, s.run = .halted → s.fault ≠ none → ReachableNoReset s t → t = s

/-- R38, R9 and the register rows of R280: a register reads back what the host wrote in Idle, PC with bit 0 cleared; every
other register, memory, the run state, the fault record, the parameters, the mark and the count of draws are as they were;
an integer out of range for its reading, or a number that is no integer, fails. That a write of APSR stores the whole word is
the model's reading (assumption log 13). R280 says Idle only: that a write outside Idle answers a refusal is the model's
choice (assumption log 14), and that the run state is checked before the value is one too (assumption log 24). -/
def Obligations.HostRegisterWrites : Prop :=
  (∀ (s : State) (r : HostReg) (n : SourceNumber) (v : Word), s.run = .idle → binaryValue 32 n = some v →
    ∃ t, s.hostWriteReg r n = .next t ∧ t.hostRead r = (if r = .general PC then (v >>> 1) <<< 1 else v) ∧
      (∀ q, q ≠ r → t.hostRead q = s.hostRead q) ∧ memKept s t ∧ controlKept s t ∧ t.wrotePC = s.wrotePC ∧
      t.draws = s.draws) ∧
  (∀ v : Int, (0 ≤ v → v < 2 ^ 32 → ∃ w : Word, binaryValue 32 (.integer .unsigned v) = some w ∧ (w.toNat : Int) = v) ∧
    (-2 ^ 31 ≤ v → v < 2 ^ 31 → ∃ w : Word, binaryValue 32 (.integer .signed v) = some w ∧ w.toInt = v)) ∧
  (∀ (s : State) (r : HostReg) (v : Int), s.run = .idle →
    (¬ (0 ≤ v ∧ v < 2 ^ 32) → ∃ e, s.hostWriteReg r (.integer .unsigned v) = .fault e) ∧
    (¬ (-2 ^ 31 ≤ v ∧ v < 2 ^ 31) → ∃ e, s.hostWriteReg r (.integer .signed v) = .fault e) ∧
    ∃ e, s.hostWriteReg r .notInteger = .fault e) ∧
  (∀ (s : State) (r : HostReg) (n : SourceNumber), s.run ≠ .idle → ∃ e, s.hostWriteReg r n = .refused e)

/-- The image load of R292, one segment: in Idle, its bytes go to the physical address in order, read-only regions included,
and nothing else changes. That the segments of an image are written one after another in the order of its list is the
model's choice (assumption log 25), and so is the refusal outside Idle (assumption log 14). -/
def Obligations.ImageLoad : Prop :=
  (∀ (s : State) (content : List Byte) (g : Segment), s.run = .idle → g.fileOffset + g.size ≤ content.length →
    g.size ≤ 2 ^ 32 → (∀ k < g.size, s.plain (byteAddr g.physicalAddress k) = true) →
    ∃ t, s.hostLoad ⟨content, [g]⟩ = .next t ∧
      (∀ k < g.size, t.peek (byteAddr g.physicalAddress k) = content[g.fileOffset + k]?) ∧
      (∀ x, (∀ k < g.size, x ≠ byteAddr g.physicalAddress k) → t.peek x = s.peek x) ∧
      t = { s with mem := t.mem }) ∧
  (∀ (s t u : State) (content : List Byte) (gs hs : List Segment), s.hostLoad ⟨content, gs⟩ = .next t →
    t.hostLoad ⟨content, hs⟩ = .next u → s.hostLoad ⟨content, gs ++ hs⟩ = .next u) ∧
  (∀ (s : State) (image : Image), s.run ≠ .idle → ∃ e, s.hostLoad image = .refused e)

/-! ## Memory -/

/-- R44: an access that is misaligned, and then one with an unmapped byte, raises its fault; any other answers the bytes,
each the last written there or a draw, and changes nothing but the count of draws, which is the model's own (assumption
log 2); the attributes are those of each byte's region (assumption log 9). -/
def Obligations.MemReadRule : Prop :=
  ∀ (s : State) (acc : Access) (w : Width) (addr : Word),
    (addr.toNat % w.bytes ≠ 0 → s.memRead acc w addr = .error (.alignmentFault s.pc addr w acc)) ∧
    (addr.toNat % w.bytes = 0 → (∃ k < w.bytes, s.mapped (byteAddr addr k) = false) →
      s.memRead acc w addr = .error (.memoryFault s.pc addr w acc)) ∧
    (addr.toNat % w.bytes = 0 → (∀ k < w.bytes, s.mapped (byteAddr addr k) = true) →
      ∃ v t, s.memRead acc w addr = .ok (v, t) ∧ v.toNat < 2 ^ (8 * w.bytes) ∧
        (∀ k < w.bytes, readsByte s t (byteAddr addr k) (byteOf v k)) ∧ t = { s with draws := t.draws } ∧
        s.draws ≤ t.draws ∧ t.draws ≤ s.draws + w.bytes)

/-- R45: an access that is misaligned, and then one with an unmapped byte, raises its fault; any other stores the low bytes,
but not in a read-only region or a device's, and changes nothing else (assumption logs 9 and 11). -/
def Obligations.MemWriteRule : Prop :=
  ∀ (s : State) (w : Width) (addr v : Word),
    (addr.toNat % w.bytes ≠ 0 → s.memWrite w addr v = .error (.alignmentFault s.pc addr w .write)) ∧
    (addr.toNat % w.bytes = 0 → (∃ k < w.bytes, s.mapped (byteAddr addr k) = false) →
      s.memWrite w addr v = .error (.memoryFault s.pc addr w .write)) ∧
    (addr.toNat % w.bytes = 0 → (∀ k < w.bytes, s.mapped (byteAddr addr k) = true) →
      ∃ t, s.memWrite w addr v = .ok t ∧ t = { s with mem := t.mem } ∧
        (∀ k < w.bytes, t.peek (byteAddr addr k) = writtenByte s (byteAddr addr k) (byteOf v k)) ∧
        (∀ x, (∀ k < w.bytes, x ≠ byteAddr addr k) → t.peek x = s.peek x))

/-- R42: where memory holds the bytes, a read is their little-endian sum; and after a word is written into writable memory,
a read of it answers it, a halfword read at the address plus 2 answers bits 31:16, and a byte read at the address plus `k`
answers bits `8k+7:8k`. -/
def Obligations.LittleEndian : Prop :=
  (∀ (s : State) (acc : Access) (w : Width) (addr : Word) (b : Nat → Byte), addr.toNat % w.bytes = 0 →
    (∀ k < w.bytes, s.plain (byteAddr addr k) = true ∧ s.peek (byteAddr addr k) = some (b k)) →
    s.memRead acc w addr =
      .ok (BitVec.ofNat 32 ((List.range w.bytes).map fun k => (b k).toNat * 2 ^ (8 * k)).sum, s)) ∧
  (∀ (s t : State) (addr v : Word), addr.toNat % 4 = 0 → (∀ k < 4, s.writable (byteAddr addr k) = true) →
    s.memWrite .word addr v = .ok t →
    t.memRead .read .word addr = .ok (v, t) ∧
    t.memRead .read .half addr = .ok (v &&& 0xFFFF#32, t) ∧
    t.memRead .read .half (addr + 2#32) = .ok (v >>> 16, t) ∧
    ∀ k < 4, t.memRead .read .byte (byteAddr addr k) = .ok ((v >>> (8 * k)) &&& 0xFF#32, t))

/-- R52: a write to a read-only region is no fault and changes nothing; no step changes a byte of one; the default map
marks flash so, and the host's load writes it. -/
def Obligations.ReadOnlyRegions : Prop :=
  (∀ (s : State) (w : Width) (addr v : Word), addr.toNat % w.bytes = 0 →
    (∀ k < w.bytes, ∃ r, s.region (byteAddr addr k) = some r ∧ r.readonly = true) → s.memWrite w addr v = .ok s) ∧
  (∀ (s t : State) (a : Word) (r : Region), s.region a = some r → r.readonly = true → step s = .next t →
    t.peek a = s.peek a) ∧
  (∃ r, regionAt Config.testMemmap Config.flashOrigin = some r ∧ r.readonly = true) ∧
  (∀ (s : State) (a : Word) (b : Byte) (r : Region), s.region a = some r → r.device = false →
    ∃ t, s.loadByte a b = .ok t ∧ t.peek a = some b)

/-! ## Taking a fault -/

/-- R264: when a cycle raises a fault, the fault is recorded with the address of its instruction, the core halts, PC holds
that address, APSR, the parameters, every register but those a POP had loaded, and, but for a PUSH, memory are as they were,
and `execute()` is refused. -/
def Obligations.TakingAFault : Prop :=
  ∀ s t : State, s.fault = none → step s = .next t → t.fault ≠ none →
    (∃ f, t.fault = some f ∧ f.address = s.reg PC) ∧ t.run = .halted ∧ t.reg PC = s.reg PC ∧ t.apsr = s.apsr ∧
    t.params = s.params ∧ (∃ r, t.hostExecute = .refused r) ∧
    (t.mem ≠ s.mem → ∃ s1 op m list, s.beginCycle.fetchOp = (s1, .ok op) ∧ decode op = .ok (.push m list)) ∧
    ∀ r, t.reg r ≠ s.reg r → ∃ s1 op p list, s.beginCycle.fetchOp = (s1, .ok op) ∧ decode op = .ok (.pop p list) ∧
      ∃ q : LowReg, r = low q ∧ list.getLsbD q.toNat = true

/-- R265: what a faulting instruction leaves. All but PUSH and POP leave registers, APSR and memory exactly as before. A PUSH
or POP of a list that is not empty faults wherever an access of its block does, with the first such fault (R267); of one whose
access `k` is the first that faults, each word stored or register loaded before holds its old or its new value; SP, PC, APSR
and everything else are unchanged. -/
def Obligations.PartialState : Prop :=
  (∀ (i : Instr) (s t : State) (f : FaultRecord), s.fault = none → exec i s = .next t → t.fault = some f →
    ((∀ m list, i ≠ .push m list ∧ i ≠ .pop m list) → t = { s with fault := some f, run := .halted }) ∧
    (∀ m list, i = .push m list → listCount m list ≠ 0 →
      ∃ k < listCount m list,
        s.accessFault .write .word (wordAddr (pushAddr s (listCount m list)) k) = some f ∧
        (∀ j < k, s.accessFault .write .word (wordAddr (pushAddr s (listCount m list)) j) = none) ∧
        (∀ j < k, wordKept s t (wordAddr (pushAddr s (listCount m list)) j) ∨
          ∃ v, pushedWord s m list j v ∧ wordWritten s t (wordAddr (pushAddr s (listCount m list)) j) v) ∧
        (∀ x, (∀ j < 4 * k, x ≠ byteAddr (pushAddr s (listCount m list)) j) → t.peek x = s.peek x) ∧
        regsKept [] s t ∧ t.apsr = s.apsr ∧ t.run = .halted ∧ t.params = s.params) ∧
    (∀ p list, i = .pop p list → listCount p list ≠ 0 →
      ∃ k < listCount p list, s.accessFault .read .word (wordAddr (s.reg SP) k) = some f ∧
        (∀ j < k, s.accessFault .read .word (wordAddr (s.reg SP) j) = none) ∧
        (∀ q : LowReg, list.getLsbD q.toNat = true → listedBelow list q.toNat < k →
          t.reg (low q) = s.reg (low q) ∨
            readsWord s t (wordAddr (s.reg SP) (listedBelow list q.toNat)) (t.reg (low q))) ∧
        (∀ r, (∀ q : LowReg, list.getLsbD q.toNat = true → listedBelow list q.toNat < k → r ≠ low q) →
          t.reg r = s.reg r) ∧
        t.mem = s.mem ∧ t.apsr = s.apsr ∧ t.run = .halted ∧ t.params = s.params)) ∧
  (∀ (s : State) (m : Bool) (list : BitVec 8),
    (∃ j < listCount m list, s.accessFault .write .word (wordAddr (pushAddr s (listCount m list)) j) ≠ none) →
    ∃ k < listCount m list, ∃ f t,
      s.accessFault .write .word (wordAddr (pushAddr s (listCount m list)) k) = some f ∧
      (∀ j < k, s.accessFault .write .word (wordAddr (pushAddr s (listCount m list)) j) = none) ∧
      exec (.push m list) s = .next t ∧ t.fault = some f ∧ t.run = .halted) ∧
  (∀ (s : State) (p : Bool) (list : BitVec 8),
    (∃ j < listCount p list, s.accessFault .read .word (wordAddr (s.reg SP) j) ≠ none) →
    ∃ k < listCount p list, ∃ f t, s.accessFault .read .word (wordAddr (s.reg SP) k) = some f ∧
      (∀ j < k, s.accessFault .read .word (wordAddr (s.reg SP) j) = none) ∧
      exec (.pop p list) s = .next t ∧ t.fault = some f ∧ t.run = .halted)

/-- R266: PUSH and POP with an empty list raise Unpredictable before any access, so that nothing else changes, and the
encoder never produces their halfwords. -/
def Obligations.EmptyRegisterList : Prop :=
  hasWord (.push false 0#8) (.one 0xB400#16) ∧ hasWord (.pop false 0#8) (.one 0xBC00#16) ∧
  (∀ s : State, exec (.push false 0#8) s =
    .next { s with fault := some (.unpredictable (s.reg PC) 0xB400#16), run := .halted }) ∧
  (∀ s : State, exec (.pop false 0#8) s =
    .next { s with fault := some (.unpredictable (s.reg PC) 0xBC00#16), run := .halted }) ∧
  (∀ (ctx : EncodeContext) (m : Mnemonic) (ops : List Operand) (op : Opcode), assembleOpcode ctx m ops = .ok op →
    op ≠ .one 0xB400#16 ∧ op ≠ .one 0xBC00#16)

/-- The faults of the fetch, in the order of R267: at an unmapped PC the cycle raises MemoryFault for the first halfword; a
pair whose second halfword is unmapped raises it for that one; in both, nothing of the instruction is performed.
The address and width recorded are the model's reading (assumption log 21). -/
def Obligations.FetchFaults : Prop :=
  (∀ s : State, s.driven = true → s.atHaltAddr = false → s.pc.getLsbD 0 = false →
    (∃ k < 2, s.mapped (byteAddr s.pc k) = false) →
    ∃ t, step s = .next t ∧ t.fault = some (.memoryFault s.pc s.pc .half .fetch) ∧ t.run = .halted ∧ t.regs = s.regs ∧
      t.apsr = s.apsr ∧ t.mem = s.mem) ∧
  (∀ (s : State) (h1 : Halfword), s.driven = true → s.atHaltAddr = false → s.pc.getLsbD 0 = false →
    startsPair h1 = true →
    (∀ k < 2, s.plain (byteAddr s.pc k) = true ∧ s.peek (byteAddr s.pc k) = (halfwordBytes h1)[k]?) →
    (∃ k < 2, s.mapped (byteAddr (s.pc + 2#32) k) = false) →
    ∃ t, step s = .next t ∧ t.fault = some (.memoryFault s.pc (s.pc + 2#32) .half .fetch) ∧ t.run = .halted ∧
      t.regs = s.regs ∧ t.apsr = s.apsr ∧ t.mem = s.mem)

/-- Where a load, a store, a PUSH or a POP traps: a misaligned access raises AlignmentFault, and only an aligned one with an
unmapped byte raises MemoryFault; the fault is recorded and the core halts. After a single load or store nothing else changes.
A PUSH or POP of a list that is not empty raises AlignmentFault for its lowest word where SP is no multiple of 4, and
otherwise MemoryFault for the first word that has an unmapped byte; what it leaves is said by PartialState (R47, R200, R231,
R232, R262, R263, R267; the address recorded: assumption log 21). -/
def Obligations.LoadAndStoreFaults : Prop :=
  (∀ (i : Instr) (s : State) (acc : Access) (rt : LowReg) (w : Width) (ea : Word),
    (loadOf i s = some (rt, w, ea) ∧ acc = .read) ∨ (storeOf i s = some (rt, w, ea) ∧ acc = .write) →
    (ea.toNat % w.bytes ≠ 0 →
      exec i s = .next { s with fault := some (.alignmentFault (s.reg PC) ea w acc), run := .halted }) ∧
    (ea.toNat % w.bytes = 0 → (∃ k < w.bytes, s.mapped (byteAddr ea k) = false) →
      exec i s = .next { s with fault := some (.memoryFault (s.reg PC) ea w acc), run := .halted })) ∧
  (∀ (i : Instr) (s : State) (acc : Access) (base : Word) (n : Nat), blockOf i s = some (acc, base, n) → n ≠ 0 →
    ((s.reg SP).toNat % 4 ≠ 0 →
      ∃ t, exec i s = .next t ∧ t.fault = some (.alignmentFault (s.reg PC) base .word acc) ∧ t.run = .halted) ∧
    (∀ k < n, (s.reg SP).toNat % 4 = 0 → blockMapped s base k → (∃ b < 4, s.mapped (byteAddr (wordAddr base k) b) = false) →
      ∃ t, exec i s = .next t ∧ t.fault = some (.memoryFault (s.reg PC) (wordAddr base k) .word acc) ∧ t.run = .halted))

/-! ## The ALU and the shifter -/

/-- R121, R122 and R123: the results and the flags of `add`, `sub` and `mul`, each flag in the words of its rule, and that
`add` and `sub` are AddWithCarry. -/
def Obligations.AluPrimitives : Prop :=
  (∀ a b : Word, (aluAdd a b).value = a + b ∧ (aluAdd a b).n = (a + b).msb ∧ (aluAdd a b).z = decide (a + b = 0#32) ∧
    (aluAdd a b).c = decide (a.toNat + b.toNat > 0xFFFFFFFF) ∧
    (aluAdd a b).v = decide (a.msb = b.msb ∧ (a + b).msb ≠ a.msb) ∧ aluAdd a b = addWithCarry a b false) ∧
  (∀ a b : Word, (aluSub a b).value = a - b ∧ (aluSub a b).n = (a - b).msb ∧ (aluSub a b).z = decide (a - b = 0#32) ∧
    (aluSub a b).c = decide (b.toNat ≤ a.toNat) ∧ (aluSub a b).v = decide (a.msb ≠ b.msb ∧ (a - b).msb ≠ a.msb) ∧
    (b ≠ 0#32 → (aluSub a b).c = (aluAdd a (-b)).c) ∧ aluSub a b = addWithCarry a (~~~b) true) ∧
  (∀ a b : Word, (aluMul a b).toNat = a.toNat * b.toNat % 2 ^ 32 ∧ aluMul a b = BitVec.ofInt 32 (a.toInt * b.toInt)) ∧
  (∀ (s : State) (r : Word), flagsAre s (s.setNZ r) r.msb (r == 0#32) s.flagC s.flagV ∧ restKept [] s (s.setNZ r))

/-- R124: the ALU laws that the source states. -/
def Obligations.AluLaws : Prop :=
  (∀ a b : Word, (aluAdd a b).c = true ↔ a.toNat + b.toNat > 0xFFFFFFFF) ∧
  aluAdd 0x7FFFFFFF#32 1#32 = ⟨0x80000000#32, true, false, false, true⟩ ∧
  (∀ a b : Word, (aluSub a b).value = (aluAdd a (-b)).value ∧ (aluSub a b).n = (aluAdd a (-b)).n ∧
    (aluSub a b).z = (aluAdd a (-b)).z ∧ (b ≠ 0#32 → (aluSub a b).c = (aluAdd a (-b)).c) ∧
    (b ≠ 0x80000000#32 → (aluSub a b).v = (aluAdd a (-b)).v))

/-- R180: the shifter, bit by bit, for the amounts 0 to 255: bit `i` of the result of each kind, and the carry, which is the
last bit shifted out, 0 beyond 32 for LSL and LSR, the sign for ASR, bit 31 of the result for ROR; amount 0 gives back the
value and the carry. -/
def Obligations.ShifterBits : Prop :=
  ∀ (x : Word) (cin : Bool) (n : Nat), n ≤ 255 →
    (∀ kind, shiftC x kind 0 cin = (x, cin)) ∧
    (0 < n →
      (∀ i < 32, (shiftC x .lsl n cin).1.getLsbD i = (decide (n ≤ i) && x.getLsbD (i - n))) ∧
      (shiftC x .lsl n cin).2 = (decide (n ≤ 32) && x.getLsbD (32 - n)) ∧
      (∀ i < 32, (shiftC x .lsr n cin).1.getLsbD i = x.getLsbD (i + n)) ∧
      (shiftC x .lsr n cin).2 = x.getLsbD (n - 1) ∧
      (∀ i < 32, (shiftC x .asr n cin).1.getLsbD i = if i + n < 32 then x.getLsbD (i + n) else x.getLsbD 31) ∧
      (shiftC x .asr n cin).2 = (if n ≤ 32 then x.getLsbD (n - 1) else x.getLsbD 31) ∧
      (∀ i < 32, (shiftC x .ror n cin).1.getLsbD i = x.getLsbD ((i + n) % 32)) ∧
      (shiftC x .ror n cin).2 = (shiftC x .ror n cin).1.getLsbD 31)

/-! ## Arithmetic -/

/-- R127 to R132: ADDS and SUBS in their register, imm3 and imm8 forms. -/
def Obligations.AddAndSubtract : Prop :=
  ∀ (s : State) (rd rn rm : LowReg) (imm3 : BitVec 3) (imm8 : BitVec 8),
    let x := s.reg (low rn)
    let y := s.reg (low rm)
    let d := s.reg (low rd)
    let i3 := imm3.setWidth 32
    let i8 := imm8.setWidth 32
    hasWord (.addsReg rd rn rm) (.one (pack (0b0001100#7 ++ rm ++ rn ++ rd))) ∧
    computes (.addsReg rd rn rm) s rd (x + y) (sumCarry x y false) (sumOverflow x y false) ∧
    hasWord (.subsReg rd rn rm) (.one (pack (0b0001101#7 ++ rm ++ rn ++ rd))) ∧
    computes (.subsReg rd rn rm) s rd (x - y) (noBorrow x y) (differenceOverflow x y) ∧
    hasWord (.addsImm3 rd rn imm3) (.one (pack (0b0001110#7 ++ imm3 ++ rn ++ rd))) ∧
    computes (.addsImm3 rd rn imm3) s rd (x + i3) (sumCarry x i3 false) (sumOverflow x i3 false) ∧
    hasWord (.subsImm3 rd rn imm3) (.one (pack (0b0001111#7 ++ imm3 ++ rn ++ rd))) ∧
    computes (.subsImm3 rd rn imm3) s rd (x - i3) (noBorrow x i3) (differenceOverflow x i3) ∧
    hasWord (.addsImm8 rd imm8) (.one (pack (0b00110#5 ++ rd ++ imm8))) ∧
    computes (.addsImm8 rd imm8) s rd (d + i8) (sumCarry d i8 false) (sumOverflow d i8 false) ∧
    hasWord (.subsImm8 rd imm8) (.one (pack (0b00111#5 ++ rd ++ imm8))) ∧
    computes (.subsImm8 rd imm8) s rd (d - i8) (noBorrow d i8) (differenceOverflow d i8)

/-- R133, R134, R135 and R141: the compares write the four flags and nothing else; the high form reads register 15 as the
address of the instruction plus 4. -/
def Obligations.Compares : Prop :=
  ∀ (s : State) (rn rm : LowReg) (hn hm : RegNum) (imm8 : BitVec 8),
    let x := s.reg (low rn)
    let y := s.reg (low rm)
    let i8 := imm8.setWidth 32
    let p := if hn = PC then s.reg PC + 4#32 else s.reg hn
    let q := if hm = PC then s.reg PC + 4#32 else s.reg hm
    hasWord (.cmpImm8 rn imm8) (.one (pack (0b00101#5 ++ rn ++ imm8))) ∧
    compares (.cmpImm8 rn imm8) s (x - i8) (noBorrow x i8) (differenceOverflow x i8) ∧
    hasWord (.cmpReg rn rm) (.one (pack (0b0100001010#10 ++ rm ++ rn))) ∧
    compares (.cmpReg rn rm) s (x - y) (noBorrow x y) (differenceOverflow x y) ∧
    hasWord (.cmn rn rm) (.one (pack (0b0100001011#10 ++ rm ++ rn))) ∧
    compares (.cmn rn rm) s (x + y) (sumCarry x y false) (sumOverflow x y false) ∧
    hasWord (.cmpHi hn hm) (.one (pack (0b01000101#8 ++ hn.extractLsb' 3 1 ++ hm ++ hn.extractLsb' 0 3))) ∧
    compares (.cmpHi hn hm) s (p - q) (noBorrow p q) (differenceOverflow p q)

/-- R136 to R139: ADCS and SBCS with the carry that comes in, RSBS, whose only immediate is 0, and MULS, which keeps C and
V. -/
def Obligations.CarryNegateMultiply : Prop :=
  ∀ (s : State) (rd rm : LowReg),
    let x := s.reg (low rd)
    let y := s.reg (low rm)
    hasWord (.adcs rd rm) (.one (pack (0b0100000101#10 ++ rm ++ rd))) ∧
    computes (.adcs rd rm) s rd (x + y + (BitVec.ofBool s.flagC).setWidth 32) (sumCarry x y s.flagC)
      (sumOverflow x y s.flagC) ∧
    hasWord (.sbcs rd rm) (.one (pack (0b0100000110#10 ++ rm ++ rd))) ∧
    computes (.sbcs rd rm) s rd (x - y - (BitVec.ofBool (!s.flagC)).setWidth 32)
      (decide (y.toNat + (!s.flagC).toNat ≤ x.toNat))
      (decide (x.toInt - y.toInt - (!s.flagC).toNat < -2 ^ 31 ∨ 2 ^ 31 ≤ x.toInt - y.toInt - (!s.flagC).toNat)) ∧
    hasWord (.rsbs rd rm) (.one (pack (0b0100001001#10 ++ rm ++ rd))) ∧
    computes (.rsbs rd rm) s rd (-y) (y == 0#32) (y == 0x80000000#32) ∧
    hasWord (.muls rd rm) (.one (pack (0b0100001101#10 ++ rm ++ rd))) ∧
    computes (.muls rd rm) s rd (y * x) s.flagC s.flagV ∧
    ∀ (ctx : EncodeContext) (v : Int),
      (∃ i, assemble ctx .rsbs [.reg (low rd), .reg (low rm), .imm v] = .ok i) ↔ v = 0

/-- R140 and R168: ADD and MOV of any registers write no flag; register 15 reads as the address of the instruction plus 4,
and as the destination it is a PC write. -/
def Obligations.HighAddAndMove : Prop :=
  ∀ (s : State) (rd rm : RegNum),
    let x := if rd = PC then s.reg PC + 4#32 else s.reg rd
    let y := if rm = PC then s.reg PC + 4#32 else s.reg rm
    hasWord (.addHi rd rm) (.one (pack (0b01000100#8 ++ rd.extractLsb' 3 1 ++ rm ++ rd.extractLsb' 0 3))) ∧
    (rd ≠ PC → sets (.addHi rd rm) s rd (x + y)) ∧
    (rd = PC → ∃ t, jumps (.addHi rd rm) s t (x + y) []) ∧
    hasWord (.movHi rd rm) (.one (pack (0b01000110#8 ++ rd.extractLsb' 3 1 ++ rm ++ rd.extractLsb' 0 3))) ∧
    (rd ≠ PC → sets (.movHi rd rm) s rd y) ∧
    (rd = PC → ∃ t, jumps (.movHi rd rm) s t y [])

/-- R142 to R145: ADR and the SP arithmetic write one register and no flag. -/
def Obligations.AddressArithmetic : Prop :=
  ∀ (s : State) (rd : LowReg) (imm8 : BitVec 8) (imm7 : BitVec 7),
    hasWord (.adr rd imm8) (.one (pack (0b10100#5 ++ rd ++ imm8))) ∧
    sets (.adr rd imm8) s (low rd) (((s.reg PC + 4#32) >>> 2) <<< 2 + imm8.setWidth 32 * 4#32) ∧
    hasWord (.addRdSp rd imm8) (.one (pack (0b10101#5 ++ rd ++ imm8))) ∧
    sets (.addRdSp rd imm8) s (low rd) (s.reg SP + imm8.setWidth 32 * 4#32) ∧
    hasWord (.addSpImm imm7) (.one (pack (0b101100000#9 ++ imm7))) ∧
    sets (.addSpImm imm7) s SP (s.reg SP + imm7.setWidth 32 * 4#32) ∧
    hasWord (.subSpImm imm7) (.one (pack (0b101100001#9 ++ imm7))) ∧
    sets (.subSpImm imm7) s SP (s.reg SP - imm7.setWidth 32 * 4#32)

/-! ## Logic, moves and shifts -/

/-- R160 to R165: the bitwise operations write N and Z from the result and keep C and V; TST writes no register. -/
def Obligations.BitwiseOperations : Prop :=
  ∀ (s : State) (rd rm : LowReg),
    let x := s.reg (low rd)
    let y := s.reg (low rm)
    hasWord (.ands rd rm) (.one (pack (0b0100000000#10 ++ rm ++ rd))) ∧
    computes (.ands rd rm) s rd (x &&& y) s.flagC s.flagV ∧
    hasWord (.eors rd rm) (.one (pack (0b0100000001#10 ++ rm ++ rd))) ∧
    computes (.eors rd rm) s rd (x ^^^ y) s.flagC s.flagV ∧
    hasWord (.orrs rd rm) (.one (pack (0b0100001100#10 ++ rm ++ rd))) ∧
    computes (.orrs rd rm) s rd (x ||| y) s.flagC s.flagV ∧
    hasWord (.bics rd rm) (.one (pack (0b0100001110#10 ++ rm ++ rd))) ∧
    computes (.bics rd rm) s rd (x &&& ~~~y) s.flagC s.flagV ∧
    hasWord (.mvns rd rm) (.one (pack (0b0100001111#10 ++ rm ++ rd))) ∧
    computes (.mvns rd rm) s rd (~~~y) s.flagC s.flagV ∧
    hasWord (.tst rd rm) (.one (pack (0b0100001000#10 ++ rm ++ rd))) ∧
    compares (.tst rd rm) s (x &&& y) s.flagC s.flagV

/-- R166 and R167: MOVS of an immediate and between low registers; N is clear after the immediate form, which encodes
exactly the immediates 0 to 255. -/
def Obligations.Moves : Prop :=
  ∀ (s : State) (rd rm : LowReg) (imm8 : BitVec 8),
    hasWord (.movsImm8 rd imm8) (.one (pack (0b00100#5 ++ rd ++ imm8))) ∧
    (computes (.movsImm8 rd imm8) s rd (imm8.setWidth 32) s.flagC s.flagV ∧ (imm8.setWidth 32 : Word).msb = false) ∧
    hasWord (.movsReg rd rm) (.one (pack (0b0000000000#10 ++ rm ++ rd))) ∧
    computes (.movsReg rd rm) s rd (s.reg (low rm)) s.flagC s.flagV ∧
    ∀ (ctx : EncodeContext) (v : Int), (∃ i, assemble ctx .movs [.reg (low rd), .imm v] = .ok i) ↔ 0 ≤ v ∧ v ≤ 255

/-- R184, R185 and R186: the shifts by an immediate, with the shifts of R180 written as those of bit vectors; `imm5 = 0` is a
move for LSLS, whose word is that of MOVS, and shifts by 32 for LSRS and ASRS, which encode exactly the amounts 1 to 32. -/
def Obligations.ShiftsByImmediate : Prop :=
  ∀ (s : State) (rd rm : LowReg) (imm5 : BitVec 5),
    let x := s.reg (low rm)
    let n := if imm5.toNat = 0 then 32 else imm5.toNat
    (imm5 ≠ 0#5 → hasWord (.lslsImm rd rm imm5) (.one (pack (0b00000#5 ++ imm5 ++ rm ++ rd)))) ∧
    encode (.lslsImm rd rm 0#5) = encode (.movsReg rd rm) ∧
    exec (.lslsImm rd rm 0#5) s = exec (.movsReg rd rm) s ∧
    computes (.lslsImm rd rm imm5) s rd (x <<< imm5.toNat)
      (if imm5.toNat = 0 then s.flagC else x.getLsbD (32 - imm5.toNat)) s.flagV ∧
    hasWord (.lsrsImm rd rm imm5) (.one (pack (0b00001#5 ++ imm5 ++ rm ++ rd))) ∧
    (computes (.lsrsImm rd rm imm5) s rd (x >>> n) (x.getLsbD (n - 1)) s.flagV ∧ (x >>> n).msb = false) ∧
    hasWord (.asrsImm rd rm imm5) (.one (pack (0b00010#5 ++ imm5 ++ rm ++ rd))) ∧
    computes (.asrsImm rd rm imm5) s rd (x.sshiftRight n) (x.getLsbD (n - 1)) s.flagV ∧
    ∀ (ctx : EncodeContext) (v : Int) (i : Instr),
      (assemble ctx .lsls [.reg (low rd), .reg (low rm), .imm v] = .ok i ↔
        0 ≤ v ∧ v ≤ 31 ∧ i = .lslsImm rd rm (BitVec.ofInt 5 v)) ∧
      (assemble ctx .lsrs [.reg (low rd), .reg (low rm), .imm v] = .ok i ↔
        1 ≤ v ∧ v ≤ 32 ∧ i = .lsrsImm rd rm (BitVec.ofInt 5 v)) ∧
      (assemble ctx .asrs [.reg (low rd), .reg (low rm), .imm v] = .ok i ↔
        1 ≤ v ∧ v ≤ 32 ∧ i = .asrsImm rd rm (BitVec.ofInt 5 v))

/-- R187 to R190: the shifts and the rotate by bits 7:0 of a register, of every amount from 0 to 255. -/
def Obligations.ShiftsByRegister : Prop :=
  ∀ (s : State) (rd rm : LowReg),
    let x := s.reg (low rd)
    let n := (s.reg (low rm)).toNat % 256
    hasWord (.lslsReg rd rm) (.one (pack (0b0100000010#10 ++ rm ++ rd))) ∧
    computes (.lslsReg rd rm) s rd (x <<< n)
      (if n = 0 then s.flagC else decide (n ≤ 32) && x.getLsbD (32 - n)) s.flagV ∧
    hasWord (.lsrsReg rd rm) (.one (pack (0b0100000011#10 ++ rm ++ rd))) ∧
    computes (.lsrsReg rd rm) s rd (x >>> n) (if n = 0 then s.flagC else x.getLsbD (n - 1)) s.flagV ∧
    hasWord (.asrsReg rd rm) (.one (pack (0b0100000100#10 ++ rm ++ rd))) ∧
    computes (.asrsReg rd rm) s rd (x.sshiftRight n)
      (if n = 0 then s.flagC else if n ≤ 32 then x.getLsbD (n - 1) else x.msb) s.flagV ∧
    hasWord (.rors rd rm) (.one (pack (0b0100000111#10 ++ rm ++ rd))) ∧
    computes (.rors rd rm) s rd (x.rotateRight n) (if n = 0 then s.flagC else (x.rotateRight n).msb) s.flagV

/-! ## Loads and stores -/

/-- R201, R203, R205, R207, R209, R211, R213, R214, R215 and R217: every load, at its effective address. -/
def Obligations.LoadForms : Prop :=
  ∀ (s : State) (rt rn rm : LowReg) (imm5 : BitVec 5) (imm8 : BitVec 8),
    let x := s.reg (low rn)
    let y := s.reg (low rm)
    hasWord (.ldrImm rt rn imm5) (.one (pack (0b01101#5 ++ imm5 ++ rn ++ rt))) ∧
    loads (.ldrImm rt rn imm5) s rt .word false (x + imm5.setWidth 32 * 4#32) ∧
    hasWord (.ldrbImm rt rn imm5) (.one (pack (0b01111#5 ++ imm5 ++ rn ++ rt))) ∧
    loads (.ldrbImm rt rn imm5) s rt .byte false (x + imm5.setWidth 32) ∧
    hasWord (.ldrhImm rt rn imm5) (.one (pack (0b10001#5 ++ imm5 ++ rn ++ rt))) ∧
    loads (.ldrhImm rt rn imm5) s rt .half false (x + imm5.setWidth 32 * 2#32) ∧
    hasWord (.ldrReg rt rn rm) (.one (pack (0b0101100#7 ++ rm ++ rn ++ rt))) ∧
    loads (.ldrReg rt rn rm) s rt .word false (x + y) ∧
    hasWord (.ldrbReg rt rn rm) (.one (pack (0b0101110#7 ++ rm ++ rn ++ rt))) ∧
    loads (.ldrbReg rt rn rm) s rt .byte false (x + y) ∧
    hasWord (.ldrhReg rt rn rm) (.one (pack (0b0101101#7 ++ rm ++ rn ++ rt))) ∧
    loads (.ldrhReg rt rn rm) s rt .half false (x + y) ∧
    hasWord (.ldrsbReg rt rn rm) (.one (pack (0b0101011#7 ++ rm ++ rn ++ rt))) ∧
    loads (.ldrsbReg rt rn rm) s rt .byte true (x + y) ∧
    hasWord (.ldrshReg rt rn rm) (.one (pack (0b0101111#7 ++ rm ++ rn ++ rt))) ∧
    loads (.ldrshReg rt rn rm) s rt .half true (x + y) ∧
    hasWord (.ldrSp rt imm8) (.one (pack (0b10011#5 ++ rt ++ imm8))) ∧
    loads (.ldrSp rt imm8) s rt .word false (s.reg SP + imm8.setWidth 32 * 4#32) ∧
    hasWord (.ldrLit rt imm8) (.one (pack (0b01001#5 ++ rt ++ imm8))) ∧
    loads (.ldrLit rt imm8) s rt .word false (((s.reg PC + 4#32) >>> 2) <<< 2 + imm8.setWidth 32 * 4#32)

/-- R202, R204, R206, R208, R210, R212 and R216: every single store, at its effective address. -/
def Obligations.StoreForms : Prop :=
  ∀ (s : State) (rt rn rm : LowReg) (imm5 : BitVec 5) (imm8 : BitVec 8),
    let x := s.reg (low rn)
    let y := s.reg (low rm)
    hasWord (.strImm rt rn imm5) (.one (pack (0b01100#5 ++ imm5 ++ rn ++ rt))) ∧
    stores (.strImm rt rn imm5) s rt .word (x + imm5.setWidth 32 * 4#32) ∧
    hasWord (.strbImm rt rn imm5) (.one (pack (0b01110#5 ++ imm5 ++ rn ++ rt))) ∧
    stores (.strbImm rt rn imm5) s rt .byte (x + imm5.setWidth 32) ∧
    hasWord (.strhImm rt rn imm5) (.one (pack (0b10000#5 ++ imm5 ++ rn ++ rt))) ∧
    stores (.strhImm rt rn imm5) s rt .half (x + imm5.setWidth 32 * 2#32) ∧
    hasWord (.strReg rt rn rm) (.one (pack (0b0101000#7 ++ rm ++ rn ++ rt))) ∧
    stores (.strReg rt rn rm) s rt .word (x + y) ∧
    hasWord (.strbReg rt rn rm) (.one (pack (0b0101010#7 ++ rm ++ rn ++ rt))) ∧
    stores (.strbReg rt rn rm) s rt .byte (x + y) ∧
    hasWord (.strhReg rt rn rm) (.one (pack (0b0101001#7 ++ rm ++ rn ++ rt))) ∧
    stores (.strhReg rt rn rm) s rt .half (x + y) ∧
    hasWord (.strSp rt imm8) (.one (pack (0b10010#5 ++ rt ++ imm8))) ∧
    stores (.strSp rt imm8) s rt .word (s.reg SP + imm8.setWidth 32 * 4#32)

/-! ## The stack -/

/-- PUSH of a list that is not empty, SP aligned and the block mapped, completes: the lowest register at the lowest address,
LR at the highest, SP below them; every other byte and register is as it was (R231). -/
def Obligations.PushInstruction : Prop :=
  ∀ (s : State) (m : Bool) (list : BitVec 8), listCount m list ≠ 0 → (s.reg SP).toNat % 4 = 0 →
    blockMapped s (pushAddr s (listCount m list)) (listCount m list) →
    hasWord (.push m list) (.one (pack (0b1011010#7 ++ BitVec.ofBool m ++ list))) ∧
    ∃ t, exec (.push m list) s = .next t ∧ t.reg SP = pushAddr s (listCount m list) ∧
      (∀ q : LowReg, list.getLsbD q.toNat = true →
        wordWritten s t (wordAddr (pushAddr s (listCount m list)) (listedBelow list q.toNat)) (s.reg (low q))) ∧
      (m = true → wordWritten s t (s.reg SP - 4#32) (s.reg LR)) ∧
      (∀ x, (∀ k < 4 * listCount m list, x ≠ byteAddr (pushAddr s (listCount m list)) k) → t.peek x = s.peek x) ∧
      t.apsr = s.apsr ∧ regsKept [SP] s t ∧ controlKept s t ∧ t.wrotePC = s.wrotePC ∧ t.draws = s.draws

/-- POP of a list that is not empty, SP aligned and the block mapped, completes: each listed register holds the word at its
place, SP is above them, PC takes the highest word as a PC write; memory and every other register are as they were
(R232). -/
def Obligations.PopInstruction : Prop :=
  ∀ (s : State) (p : Bool) (list : BitVec 8), listCount p list ≠ 0 → (s.reg SP).toNat % 4 = 0 →
    blockMapped s (s.reg SP) (listCount p list) →
    hasWord (.pop p list) (.one (pack (0b1011110#7 ++ BitVec.ofBool p ++ list))) ∧
    ∃ t, exec (.pop p list) s = .next t ∧ t.reg SP = s.reg SP + BitVec.ofNat 32 (4 * listCount p list) ∧
      (∀ q : LowReg, list.getLsbD q.toNat = true →
        readsWord s t (wordAddr (s.reg SP) (listedBelow list q.toNat)) (t.reg (low q))) ∧
      (p = true → ∃ v, readsWord s t (wordAddr (s.reg SP) (listedBelow list 8)) v ∧ t.reg PC = (v >>> 1) <<< 1 ∧
        t.wrotePC = true) ∧
      (p = false → t.reg PC = s.reg PC ∧ t.wrotePC = s.wrotePC) ∧
      (∀ r, r ≠ SP → r ≠ PC → (∀ q : LowReg, list.getLsbD q.toNat = true → r ≠ low q) → t.reg r = s.reg r) ∧
      t.apsr = s.apsr ∧ memKept s t ∧ controlKept s t

/-- POP undoes PUSH: after a PUSH into writable memory, whatever happens to the other registers and to the flags, a POP of
the same list restores the low registers and SP, and with PC in the place of LR it jumps to where LR pointed. -/
def Obligations.PopUndoesPush : Prop :=
  ∀ (s : State) (m : Bool) (list : BitVec 8), listCount m list ≠ 0 → (s.reg SP).toNat % 4 = 0 →
    (∀ k < 4 * listCount m list, s.writable (byteAddr (pushAddr s (listCount m list)) k) = true) →
    ∃ t, exec (.push m list) s = .next t ∧
      ∀ t' : State, memKept t t' → t'.params = t.params → t'.reg SP = t.reg SP →
        ∃ u, exec (.pop m list) t' = .next u ∧ u.reg SP = s.reg SP ∧ u.fault = t'.fault ∧
          (∀ q : LowReg, u.reg (low q) = if list.getLsbD q.toNat then s.reg (low q) else t'.reg (low q)) ∧
          (m = true → u.reg PC = (s.reg LR >>> 1) <<< 1) ∧ memKept t' u ∧ u.draws = t'.draws

/-! ## Branches -/

/-- The fifteen conditional branches (R240, R242): each has its condition code in bits 11:8, jumps when its condition holds,
and writes nothing when it does not. -/
def Obligations.ConditionalBranches : Prop :=
  ∀ (s : State) (imm8 : BitVec 8),
    let word := fun (code : BitVec 4) => Opcode.one (pack (0b1101#4 ++ code ++ imm8))
    let offset := imm8.signExtend 32 * 2#32
    (hasWord (.beq imm8) (word 0b0000#4) ∧ branches (.beq imm8) s (s.flagZ = true) offset) ∧
    (hasWord (.bne imm8) (word 0b0001#4) ∧ branches (.bne imm8) s (s.flagZ = false) offset) ∧
    (hasWord (.bcs imm8) (word 0b0010#4) ∧ branches (.bcs imm8) s (s.flagC = true) offset) ∧
    (hasWord (.bcc imm8) (word 0b0011#4) ∧ branches (.bcc imm8) s (s.flagC = false) offset) ∧
    (hasWord (.bmi imm8) (word 0b0100#4) ∧ branches (.bmi imm8) s (s.flagN = true) offset) ∧
    (hasWord (.bpl imm8) (word 0b0101#4) ∧ branches (.bpl imm8) s (s.flagN = false) offset) ∧
    (hasWord (.bvs imm8) (word 0b0110#4) ∧ branches (.bvs imm8) s (s.flagV = true) offset) ∧
    (hasWord (.bvc imm8) (word 0b0111#4) ∧ branches (.bvc imm8) s (s.flagV = false) offset) ∧
    (hasWord (.bhi imm8) (word 0b1000#4) ∧ branches (.bhi imm8) s (s.flagC = true ∧ s.flagZ = false) offset) ∧
    (hasWord (.bls imm8) (word 0b1001#4) ∧ branches (.bls imm8) s (s.flagC = false ∨ s.flagZ = true) offset) ∧
    (hasWord (.bge imm8) (word 0b1010#4) ∧ branches (.bge imm8) s (s.flagN = s.flagV) offset) ∧
    (hasWord (.blt imm8) (word 0b1011#4) ∧ branches (.blt imm8) s (s.flagN ≠ s.flagV) offset) ∧
    (hasWord (.bgt imm8) (word 0b1100#4) ∧ branches (.bgt imm8) s (s.flagZ = false ∧ s.flagN = s.flagV) offset) ∧
    (hasWord (.ble imm8) (word 0b1101#4) ∧ branches (.ble imm8) s (s.flagZ = true ∨ s.flagN ≠ s.flagV) offset) ∧
    (hasWord (.bal imm8) (word 0b1110#4) ∧ branches (.bal imm8) s True offset)

/-- R240: after a compare of two values, in any of its forms, the unsigned tests compare their unsigned readings and the
signed tests their signed readings. -/
def Obligations.ConditionsAfterCompare : Prop :=
  ∀ (i : Instr) (s t : State) (x y : Word),
    ((∃ rn rm, i = .cmpReg rn rm ∧ x = s.lowReg rn ∧ y = s.lowReg rm) ∨
      (∃ rn imm8, i = .cmpImm8 rn imm8 ∧ x = s.lowReg rn ∧ y = imm8.setWidth 32) ∨
      (∃ rn rm, i = .cmpHi rn rm ∧ x = s.operand rn ∧ y = s.operand rm)) →
    exec i s = .next t →
    (t.conditionPassed .eq = decide (x = y)) ∧ (t.conditionPassed .ne = decide (x ≠ y)) ∧
    (t.conditionPassed .cs = decide (y.toNat ≤ x.toNat)) ∧ (t.conditionPassed .cc = decide (x.toNat < y.toNat)) ∧
    (t.conditionPassed .hi = decide (y.toNat < x.toNat)) ∧ (t.conditionPassed .ls = decide (x.toNat ≤ y.toNat)) ∧
    (t.conditionPassed .ge = decide (y.toInt ≤ x.toInt)) ∧ (t.conditionPassed .lt = decide (x.toInt < y.toInt)) ∧
    (t.conditionPassed .gt = decide (y.toInt < x.toInt)) ∧ (t.conditionPassed .le = decide (x.toInt ≤ y.toInt))

/-- R243, R246, R247 and R248: B, BL, BX and BLX jump to their targets; BL and BLX leave the return address in LR, with bit 0
= BL_LINK_BIT; BLX reads its target before it writes LR; register 15 reads as the address of the instruction plus 4; the words of BX and
BLX with other low bits are undefined. -/
def Obligations.UnconditionalBranches : Prop :=
  ∀ (s : State) (imm11 : BitVec 11) (sign : BitVec 1) (imm10 : BitVec 10) (rm : RegNum),
    let y := if rm = PC then s.reg PC + 4#32 else s.reg rm
    let link := s.params.linkBit.setWidth 32
    hasWord (.b imm11) (.one (pack (0b11100#5 ++ imm11))) ∧
    (∃ t, jumps (.b imm11) s t (s.reg PC + 4#32 + imm11.signExtend 32 * 2#32) []) ∧
    hasWord (.bl sign imm10 imm11) (.two (pack (0b11110#5 ++ sign ++ imm10)) (pack (0b11111#5 ++ imm11))) ∧
    (∃ t, jumps (.bl sign imm10 imm11) s t (s.reg PC + 4#32 + (sign ++ imm10 ++ imm11).signExtend 32 * 2#32) [LR] ∧
      t.reg LR = (s.reg PC + 4#32) ||| link) ∧
    hasWord (.bx rm) (.one (pack (0b010001110#9 ++ rm ++ 0b000#3))) ∧
    (∃ t, jumps (.bx rm) s t y []) ∧
    hasWord (.blx rm) (.one (pack (0b010001111#9 ++ rm ++ 0b000#3))) ∧
    (∃ t, jumps (.blx rm) s t y [LR] ∧ t.reg LR = (s.reg PC + 2#32) ||| link) ∧
    ∀ k : BitVec 3, k ≠ 0#3 → (∃ r, decode (.one (pack (0b010001110#9 ++ rm ++ k))) = .error r) ∧
      ∃ r, decode (.one (pack (0b010001111#9 ++ rm ++ k))) = .error r

/-- A call and its return: after BL or BLX at an even address, under either value of BL_LINK_BIT, in any later state that
holds the link value, BX LR and MOV PC, LR go to the instruction after the call, and so does POP of PC where the stack holds
the link value. -/
def Obligations.CallAndReturn : Prop :=
  ∀ (i : Instr) (s t u : State) (len : Nat), s.pc.getLsbD 0 = false →
    ((∃ sign imm10 imm11, i = .bl sign imm10 imm11) ∧ len = 4 ∨ (∃ rm, i = .blx rm) ∧ len = 2) → exec i s = .next t →
    (u.reg LR = t.reg LR →
      (∃ v, exec (.bx LR) u = .next v ∧ v.pc = s.pc + BitVec.ofNat 32 len) ∧
      (∃ v, exec (.movHi PC LR) u = .next v ∧ v.pc = s.pc + BitVec.ofNat 32 len)) ∧
    ((u.reg SP).toNat % 4 = 0 → holdsWord u (u.reg SP) (t.reg LR) →
      ∃ v, exec (.pop true 0#8) u = .next v ∧ v.pc = s.pc + BitVec.ofNat 32 len)

/-! ## What no instruction does -/

/-- R25: bits 27 to 0 of APSR are 0 after reset, no step writes them, and no step reads them: two runs that differ only in
them go on differing only in them. -/
def Obligations.ApsrLowBits : Prop :=
  (∀ p : Params, (State.resetWith p).apsr.extractLsb' 0 28 = 0#28) ∧
  (∀ s t : State, step s = .next t → apsrLowKept s t) ∧
  (∀ s t s' t' : State, sameButApsrLow s t → step s = .next s' → step t = .next t' → sameButApsrLow s' t')

/-- Which flags an instruction writes (R26): the transfers, branches and address forms none; the logical forms, the moves
and MULS only N and Z; the shifts only N, Z and C, and not C for an amount of 0. -/
def Obligations.FlagWriters : Prop :=
  ∀ (i : Instr) (s t : State), exec i s = .next t →
    (writesNoFlag i = true → t.apsr = s.apsr) ∧
    (writesNZOnly i = true → t.flagC = s.flagC ∧ t.flagV = s.flagV) ∧
    (writesNZC i = true → t.flagV = s.flagV) ∧
    (∀ rd rm, i = .lslsReg rd rm ∨ i = .lsrsReg rd rm ∨ i = .asrsReg rd rm ∨ i = .rors rd rm →
      (s.reg (low rm)).toNat % 256 = 0 → t.flagC = s.flagC)

/-- Which instructions can change R8 to R12, SP, LR, PC and memory (R22, R32, R33, R106, R107): the high-register forms, the
SP forms, the calls, the branches, PUSH, POP and the stores, and no other. -/
def Obligations.RegisterWriters : Prop :=
  ∀ (i : Instr) (s t : State), exec i s = .next t →
    (∀ r : RegNum, 8 ≤ r.toNat → r.toNat ≤ 12 → t.reg r ≠ s.reg r → ∃ rm, i = .addHi r rm ∨ i = .movHi r rm) ∧
    (t.reg SP ≠ s.reg SP → canWriteSP i = true) ∧ (t.reg LR ≠ s.reg LR → canWriteLR i = true) ∧
    (t.reg PC ≠ s.reg PC ∨ t.wrotePC ≠ s.wrotePC → canWritePC i = true) ∧
    (t.mem ≠ s.mem → canWriteMemory i = true) ∧ t.params = s.params

/-! ## The assembler's side -/

/-- R84: with no label table the displacement field is 0; with one, the field is stored exactly when the offset from the
site plus 4 is even and in the range of the form, and it is then half the offset. The offset wraps modulo
2^32 (assumption log 16). -/
def Obligations.BranchDisplacements : Prop :=
  (∀ (ctx : EncodeContext) (name : String) (c : Cond), ctx.labels = none →
    assemble ctx (.bcond c) [.label name] = .ok (condBranch c 0#8) ∧ assemble ctx .b [.label name] = .ok (.b 0#11) ∧
    assemble ctx .bl [.label name] = .ok (.bl 0#1 0#10 0#11)) ∧
  (∀ (ctx : EncodeContext) (table : List (String × Word)) (name : String) (c : Cond) (target : Word),
    ctx.labels = some table → lookupLabel table name = .ok target →
    let offset := (target - (ctx.site + 4#32)).toInt
    ((∃ i, assemble ctx (.bcond c) [.label name] = .ok i) ↔ offset % 2 = 0 ∧ -256 ≤ offset ∧ offset ≤ 254) ∧
    ((∃ i, assemble ctx .b [.label name] = .ok i) ↔ offset % 2 = 0 ∧ -2048 ≤ offset ∧ offset ≤ 2046) ∧
    ((∃ i, assemble ctx .bl [.label name] = .ok i) ↔ offset % 2 = 0 ∧ -4194304 ≤ offset ∧ offset ≤ 4194302) ∧
    (∀ f, assemble ctx (.bcond c) [.label name] = .ok (condBranch c f) → 2 * f.toInt = offset) ∧
    (∀ f, assemble ctx .b [.label name] = .ok (.b f) → 2 * f.toInt = offset) ∧
    (∀ f g h, assemble ctx .bl [.label name] = .ok (.bl f g h) → 2 * (f ++ g ++ h).toInt = offset))

/-- An assembled branch goes where its label stands: at an even site with a resolved label table, whatever assembles for a
branch, a literal load or ADR reaches the label's address when it is executed at that site (offsets modulo 2^32: assumption
log 16; the literal word of `=v` in the label table: assumption log 17). -/
def Obligations.AssembledLabelsAreReached : Prop :=
  ∀ (ctx : EncodeContext) (table : List (String × Word)) (name : String) (target : Word) (s : State) (i : Instr),
    ctx.labels = some table → lookupLabel table name = .ok target → s.pc = ctx.site → s.pc.getLsbD 0 = false →
    (∀ c, assemble ctx (.bcond c) [.label name] = .ok i → s.conditionPassed c = true →
      ∃ t, exec i s = .next t ∧ t.pc = target) ∧
    (assemble ctx .b [.label name] = .ok i → ∃ t, exec i s = .next t ∧ t.pc = target) ∧
    (assemble ctx .bl [.label name] = .ok i → ∃ t, exec i s = .next t ∧ t.pc = target) ∧
    (∀ rd : LowReg, assemble ctx .adr [.reg (low rd), .label name] = .ok i →
      ∃ t, exec i s = .next t ∧ t.reg (low rd) = target) ∧
    (∀ rt : LowReg, assemble ctx .ldr [.reg (low rt), .label name] = .ok i ∨
        assemble ctx .ldr [.reg (low rt), .literal name] = .ok i → loadOf i s = some (rt, .word, target))

/-- What assembles is encodable, and its words decode to an instruction with the same words and the same effect. A form that
does not declare that it needs label offsets (R88) assembles to the same whatever the site and the label table; a form that
does has a label or a literal among its operands (that ADR is such a form: assumption log 15). -/
def Obligations.AssembledDecodes : Prop :=
  ∀ (ctx : EncodeContext) (m : Mnemonic) (ops : List Operand) (i : Instr), assemble ctx m ops = .ok i →
    (i.encodable = true ∧ ∃ j, decode (encode i) = .ok j ∧ encode j = encode i ∧ ∀ s, exec j s = exec i s) ∧
    (needsLabelOffsets i = false → ∀ ctx2 : EncodeContext, assemble ctx2 m ops = .ok i) ∧
    (needsLabelOffsets i = true → ∃ name, .label name ∈ ops ∨ .literal name ∈ ops)

/-- The operand checks of R81, R82, R83, R86, R88 and R92, form by form: of every form with a 3-bit field, a high register there
is refused as such; of every form with an immediate, exactly the multiples of its scale in its range are taken, and the
alignment error and the range error are told apart; the forms with 4-bit fields take any register; CMP takes the high form
exactly when a register is high; PUSH and POP take exactly the lists of R86 and build their field as it says. Which of two
errors is reported, and which kind an empty list and another immediate of RSBS than 0 have, is the model's choice (assumption
log 6), and so are the first pass of a literal load (assumption log 15), the offset of one modulo 2^32 (assumption log 16),
the address of the word of `=v`, which the label table gives under the operand's text (assumption log 17), and the direction of
a range (assumption log 23). -/
def Obligations.OperandChecks : Prop :=
  (∀ (ctx : EncodeContext) (d n m : RegNum),
    (∀ p ∈ [(Mnemonic.adds, Instr.addsReg), (.subs, .subsReg)],
      encodesRegisters ctx p.1 [.reg d, .reg n, .reg m] [d, n, m] (p.2 (lowOf d) (lowOf n) (lowOf m))) ∧
    (∀ p ∈ [(Mnemonic.ldr, Instr.ldrReg), (.str, .strReg), (.ldrh, .ldrhReg), (.strh, .strhReg), (.ldrb, .ldrbReg),
        (.strb, .strbReg), (.ldrsb, .ldrsbReg), (.ldrsh, .ldrshReg)],
      encodesRegisters ctx p.1 [.reg d, .memReg n m] [d, n, m] (p.2 (lowOf d) (lowOf n) (lowOf m))) ∧
    (∀ p ∈ [(Mnemonic.movs, Instr.movsReg), (.lsls, .lslsReg), (.lsrs, .lsrsReg), (.asrs, .asrsReg), (.rors, .rors),
        (.ands, .ands), (.eors, .eors), (.orrs, .orrs), (.bics, .bics), (.mvns, .mvns), (.tst, .tst), (.adcs, .adcs),
        (.sbcs, .sbcs), (.cmn, .cmn), (.muls, .muls)],
      encodesRegisters ctx p.1 [.reg d, .reg m] [d, m] (p.2 (lowOf d) (lowOf m))) ∧
    encodesRegisters ctx .muls [.reg d, .reg n, .reg d] [d, n] (.muls (lowOf d) (lowOf n)) ∧
    assemble ctx .cmp [.reg n, .reg m] =
      .ok (if n.toNat < 8 ∧ m.toNat < 8 then .cmpReg (lowOf n) (lowOf m) else .cmpHi n m) ∧
    assemble ctx .add [.reg d, .reg m] = .ok (.addHi d m) ∧ assemble ctx .mov [.reg d, .reg m] = .ok (.movHi d m) ∧
    assemble ctx .bx [.reg m] = .ok (.bx m) ∧ assemble ctx .blx [.reg m] = .ok (.blx m)) ∧
  (∀ (ctx : EncodeContext) (d n : RegNum) (v : Int),
    (n ≠ SP → ∀ p ∈ [(Mnemonic.ldr, Instr.ldrImm), (.str, .strImm)],
      encodesImmediate ctx p.1 [.reg d, .memImm n v] [d, n] 4 0 124 v (p.2 (lowOf d) (lowOf n) (BitVec.ofInt 5 (v / 4)))) ∧
    (∀ p ∈ [(Mnemonic.ldrh, Instr.ldrhImm), (.strh, .strhImm)],
      encodesImmediate ctx p.1 [.reg d, .memImm n v] [d, n] 2 0 62 v (p.2 (lowOf d) (lowOf n) (BitVec.ofInt 5 (v / 2)))) ∧
    (∀ p ∈ [(Mnemonic.ldrb, Instr.ldrbImm), (.strb, .strbImm)],
      encodesImmediate ctx p.1 [.reg d, .memImm n v] [d, n] 1 0 31 v (p.2 (lowOf d) (lowOf n) (BitVec.ofInt 5 v))) ∧
    (∀ p ∈ [(Mnemonic.ldr, Instr.ldrSp), (.str, .strSp)],
      encodesImmediate ctx p.1 [.reg d, .memImm SP v] [d] 4 0 1020 v (p.2 (lowOf d) (BitVec.ofInt 8 (v / 4)))) ∧
    (d ≠ SP → encodesImmediate ctx .add [.reg d, .reg SP, .imm v] [d] 4 0 1020 v
      (.addRdSp (lowOf d) (BitVec.ofInt 8 (v / 4)))) ∧
    (∀ p ∈ [(Mnemonic.add, Instr.addSpImm), (.sub, .subSpImm)],
      encodesImmediate ctx p.1 [.reg SP, .reg SP, .imm v] [] 4 0 508 v (p.2 (BitVec.ofInt 7 (v / 4))) ∧
      encodesImmediate ctx p.1 [.reg SP, .imm v] [] 4 0 508 v (p.2 (BitVec.ofInt 7 (v / 4)))) ∧
    (∀ p ∈ [(Mnemonic.movs, Instr.movsImm8), (.cmp, .cmpImm8), (.adds, .addsImm8), (.subs, .subsImm8)],
      encodesImmediate ctx p.1 [.reg d, .imm v] [d] 1 0 255 v (p.2 (lowOf d) (BitVec.ofInt 8 v))) ∧
    (∀ p ∈ [(Mnemonic.adds, Instr.addsImm3, Instr.addsImm8), (.subs, .subsImm3, .subsImm8)],
      (d ≠ n → encodesImmediate ctx p.1 [.reg d, .reg n, .imm v] [d, n] 1 0 7 v
        (p.2.1 (lowOf d) (lowOf n) (BitVec.ofInt 3 v))) ∧
      encodesImmediate ctx p.1 [.reg d, .reg d, .imm v] [d] 1 0 255 v
        (if v ≤ 7 then p.2.1 (lowOf d) (lowOf d) (BitVec.ofInt 3 v) else p.2.2 (lowOf d) (BitVec.ofInt 8 v))) ∧
    encodesImmediate ctx .lsls [.reg d, .reg n, .imm v] [d, n] 1 0 31 v (.lslsImm (lowOf d) (lowOf n) (BitVec.ofInt 5 v)) ∧
    (∀ p ∈ [(Mnemonic.lsrs, Instr.lsrsImm), (.asrs, .asrsImm)],
      encodesImmediate ctx p.1 [.reg d, .reg n, .imm v] [d, n] 1 1 32 v (p.2 (lowOf d) (lowOf n) (BitVec.ofInt 5 v))) ∧
    encodesImmediate ctx .rsbs [.reg d, .reg n, .imm v] [d, n] 1 0 0 v (.rsbs (lowOf d) (lowOf n))) ∧
  (∀ (ctx : EncodeContext) (table : List (String × Word)) (name : String) (target : Word) (d : RegNum),
    ctx.labels = some table → lookupLabel table name = .ok target →
    let ahead : Int := (target - ((ctx.site + 4#32) >>> 2) <<< 2).toNat
    encodesImmediate ctx .ldr [.reg d, .label name] [d] 4 0 1020 ahead (.ldrLit (lowOf d) (BitVec.ofInt 8 (ahead / 4))) ∧
    encodesImmediate ctx .ldr [.reg d, .literal name] [d] 4 0 1020 ahead (.ldrLit (lowOf d) (BitVec.ofInt 8 (ahead / 4))) ∧
    encodesImmediate ctx .adr [.reg d, .label name] [d] 4 0 1020 ahead (.adr (lowOf d) (BitVec.ofInt 8 (ahead / 4)))) ∧
  (∀ (ctx : EncodeContext) (name : String) (d : RegNum), ctx.labels = none →
    encodesRegisters ctx .ldr [.reg d, .label name] [d] (.ldrLit (lowOf d) 0#8) ∧
    encodesRegisters ctx .adr [.reg d, .label name] [d] (.adr (lowOf d) 0#8)) ∧
  (∀ a b : RegNum, (b.toNat < a.toNat → ListItem.regs (.range a b) = .error .malformed) ∧
    (a.toNat ≤ b.toNat → ∃ rs, ListItem.regs (.range a b) = .ok rs ∧ rs.Nodup ∧
      ∀ r, r ∈ rs ↔ a.toNat ≤ r.toNat ∧ r.toNat ≤ b.toNat)) ∧
  (∀ (ctx : EncodeContext) (items : List ListItem) (rs : List RegNum), listRegs items = .ok rs →
    ((∃ i, assemble ctx .push [.list items] = .ok i) ↔ rs ≠ [] ∧ rs.Nodup ∧ ∀ r ∈ rs, r.toNat < 8 ∨ r = LR) ∧
    ((∃ i, assemble ctx .pop [.list items] = .ok i) ↔ rs ≠ [] ∧ rs.Nodup ∧ ∀ r ∈ rs, r.toNat < 8 ∨ r = PC) ∧
    (∀ i, assemble ctx .push [.list items] = .ok i → ∃ m list, i = .push m list ∧ (m = true ↔ LR ∈ rs) ∧
      ∀ q : LowReg, list.getLsbD q.toNat = true ↔ low q ∈ rs) ∧
    (∀ i, assemble ctx .pop [.list items] = .ok i → ∃ p list, i = .pop p list ∧ (p = true ↔ PC ∈ rs) ∧
      ∀ q : LowReg, list.getLsbD q.toNat = true ↔ low q ∈ rs) ∧
    (∀ m ∈ [Mnemonic.push, .pop], ¬ rs.Nodup →
      assemble ctx m [.list items] = .error ⟨.duplicateRegister, m, [.list items]⟩))

/-- The instruction errors of R79, R80, R82 and R89: each carries the mnemonic and the operands; an operand count that no entry
has, a number without its `#`, a name that no entry accepts and operand text that cannot be read are refused, each as its
kind. The order of the checks, and the kind of a number without its `#`, are the model's choice (assumption log 6). -/
def Obligations.InstructionErrors : Prop :=
  (∀ (ctx : EncodeContext) (m : Mnemonic) (ops : List Operand) (e : EncodeError), assemble ctx m ops = .error e →
    e.mnemonic = m ∧ e.operands = ops) ∧
  (∀ (ctx : EncodeContext) (m : Mnemonic) (ops : List Operand), ops.length ∉ operandCounts m →
    assemble ctx m ops = .error ⟨.operandCount, m, ops⟩) ∧
  (∀ (ctx : EncodeContext) (m : Mnemonic) (ops : List Operand), ops.length ∈ operandCounts m →
    (∃ v, .bare v ∈ ops) ∨ (∃ b v, .memBare b v ∈ ops) → assemble ctx m ops = .error ⟨.malformed, m, ops⟩) ∧
  (∀ (ctx : EncodeContext) (name : String) (texts : List String) (e : InstructionError),
    encodeText ctx name texts = .error e → e.mnemonic = name ∧ e.operands = texts) ∧
  (∀ (ctx : EncodeContext) (name : String) (texts : List String), readMnemonic name = none →
    encodeText ctx name texts = .error ⟨.noEntry, name, texts⟩) ∧
  (∀ (ctx : EncodeContext) (name : String) (texts : List String) (m : Mnemonic), readMnemonic name = some m →
    (texts.length ∉ operandCounts m → encodeText ctx name texts = .error ⟨.operandCount, name, texts⟩) ∧
    (texts.length ∈ operandCounts m → (∃ text ∈ texts, readOperand text = none) →
      encodeText ctx name texts = .error ⟨.malformed, name, texts⟩) ∧
    (∀ ops, texts.map readOperand = ops.map some → ∀ op,
      encodeText ctx name texts = .ok op ↔ assembleOpcode ctx m ops = .ok op))
end

