-- ==== Sys2Proof/Laws/Encoder.lean ====
section
/-! SUPPORT. What the shared operations of the encoder and the host's register write can do, said once: construction of
values, field checks, the entries of a mnemonic, and the errors. -/

namespace Sys2Proof.Machine

/-! ## Construction of values -/

/-- Construction in the unsigned reading answers exactly the integers of its range (R9). -/
theorem unsignedValue_eq_some (w : Nat) (v : Int) (b : BitVec w) :
    unsignedValue w v = some b ↔ 0 ≤ v ∧ v < 2 ^ w ∧ b = BitVec.ofInt w v := by
  unfold unsignedValue
  split
  · rename_i h
    simp [h, eq_comm]
  · rename_i h
    simp only [reduceCtorEq, false_iff]
    exact fun hb => h ⟨hb.1, hb.2.1⟩

/-- Construction in the signed reading answers exactly the integers of its range (R9). -/
theorem signedValue_eq_some (w : Nat) (v : Int) (b : BitVec w) :
    signedValue w v = some b ↔ -(2 ^ w : Int) ≤ 2 * v ∧ 2 * v < 2 ^ w ∧ b = BitVec.ofInt w v := by
  unfold signedValue
  split
  · rename_i h
    simp [h, eq_comm]
  · rename_i h
    simp only [reduceCtorEq, false_iff]
    exact fun hb => h ⟨hb.1, hb.2.1⟩

/-- The host's register write has three outcomes: the register set, the Range error, or the refusal outside Idle (R9,
R280). -/
theorem hostWriteReg_cases (s : State) (r : HostReg) (n : SourceNumber) :
    (s.run = .idle ∧ ∃ v, binaryValue 32 n = some v ∧ s.hostWriteReg r n = .next (s.hostSetReg r v)) ∨
    (s.run = .idle ∧ binaryValue 32 n = none ∧ s.hostWriteReg r n = .fault .rangeError) ∨
    (s.run ≠ .idle ∧ s.hostWriteReg r n = .refused .notIdle) := by
  unfold State.hostWriteReg
  by_cases h : s.run = .idle
  · cases hn : binaryValue 32 n <;> simp [h]
  · simp [h]

/-! ## Fields -/

/-- A 3-bit field takes a register or refuses its class (R81). -/
theorem lowField_eq (r : RegNum) :
    lowField r = if 8 ≤ r.toNat then .error .registerClass else .ok (r.setWidth 3) := by
  unfold lowField
  split <;> split <;> first | rfl | omega

/-- A scaled field: the alignment, then the range in units of the scale, then the field (R82, R83, R90). -/
theorem scaledField_eq (w scale : Nat) (v : Int) (hs : 0 < scale) :
    scaledField w scale v =
      if v % scale ≠ 0 then .error .immediateNotAligned
      else if 0 ≤ v ∧ v ≤ scale * (2 ^ w - 1) then .ok (BitVec.ofInt w (v / scale))
      else .error .immediateTooWide := by
  unfold scaledField unsignedValue
  by_cases h : v % scale = 0
  · have hs' : (0 : Int) < scale := by exact_mod_cast hs
    have hv : v / scale * scale = v := Int.ediv_mul_cancel (Int.dvd_of_emod_eq_zero h)
    have hr : (0 ≤ v / scale ∧ v / scale < 2 ^ w) ↔ (0 ≤ v ∧ v ≤ scale * (2 ^ w - 1)) := by
      constructor
      · rintro ⟨h0, h1⟩
        have h2 : v / scale ≤ 2 ^ w - 1 := by omega
        exact ⟨by rw [← hv]; positivity, by nlinarith⟩
      · rintro ⟨h0, h1⟩
        refine ⟨Int.ediv_nonneg h0 hs'.le, ?_⟩
        by_contra hc
        have h2 : (2 : Int) ^ w ≤ v / scale := by omega
        nlinarith
    by_cases hb : 0 ≤ v ∧ v ≤ scale * (2 ^ w - 1) <;> simp [h, hb, hr]
  · simp [h]

/-! ## Entries and errors -/

/-- An entry has the syntax of operands only if their count is one of the mnemonic's (R80). -/
theorem entries_length (ctx : EncodeContext) (m : Mnemonic) (ops : List Operand) (h : entries ctx m ops ≠ []) :
    ops.length ∈ operandCounts m := by
  revert h
  cases m <;>
    simp only [entries, twoLow, shiftForms, addForms, memoryForms, wordForms, spAdjustForms, operandCounts] <;>
    (repeat' split) <;> simp

/-- An entry has the syntax of operands only if every number has its `#` (R82). -/
theorem entries_hash (ctx : EncodeContext) (m : Mnemonic) (ops : List Operand) (h : entries ctx m ops ≠ []) :
    ops.any Operand.lacksHash = false := by
  revert h
  cases m <;>
    simp only [entries, twoLow, shiftForms, addForms, memoryForms, wordForms, spAdjustForms] <;>
    (repeat' split) <;> simp [Operand.lacksHash]

/-- What assembling answers: the first entry that accepts, or the error of the operands as they were given (R79, R89). -/
theorem assemble_cases (ctx : EncodeContext) (m : Mnemonic) (ops : List Operand) :
    (∃ i, firstOk (entries ctx m ops) = some i ∧ assemble ctx m ops = .ok i) ∨
    (firstOk (entries ctx m ops) = none ∧
      assemble ctx m ops = .error ⟨errorKind m ops (entries ctx m ops), m, ops⟩) := by
  unfold assemble
  cases h : firstOk (entries ctx m ops) <;> simp

/-- An encoder from strings answers what the encoder from operands does, once the strings are read (R78). -/
theorem encodeText_read (ctx : EncodeContext) (name : String) (texts : List String) (m : Mnemonic) (ops : List Operand)
    (hm : readMnemonic name = some m) (hc : texts.length ∈ operandCounts m) (ho : texts.mapM readOperand = some ops) :
    encodeText ctx name texts = (assembleOpcode ctx m ops).mapError fun e => ⟨e.kind, name, texts⟩ := by
  simp only [encodeText, hm, hc, ho, not_true_eq_false, if_false]
  cases assembleOpcode ctx m ops <;> rfl

end Sys2Proof.Machine
end

