-- ==== Sys2Proof/Laws/State.lean ====
section
/-! SUPPORT. What each update of the state does to each of its fields and observations: one lemma for each, for `simp`. -/

namespace Sys2Proof.Machine

/-! ## Register numbers -/

@[simp] theorem low_ne_SP (r : LowReg) : low r ≠ SP := by revert r; decide
@[simp] theorem low_ne_LR (r : LowReg) : low r ≠ LR := by revert r; decide
@[simp] theorem low_ne_PC (r : LowReg) : low r ≠ PC := by revert r; decide
@[simp] theorem SP_ne_low (r : LowReg) : SP ≠ low r := by revert r; decide
@[simp] theorem LR_ne_low (r : LowReg) : LR ≠ low r := by revert r; decide
@[simp] theorem PC_ne_low (r : LowReg) : PC ≠ low r := by revert r; decide
@[simp] theorem SP_ne_PC : SP ≠ PC := by decide
@[simp] theorem PC_ne_SP : PC ≠ SP := by decide
@[simp] theorem LR_ne_PC : LR ≠ PC := by decide
@[simp] theorem PC_ne_LR : PC ≠ LR := by decide
@[simp] theorem SP_ne_LR : SP ≠ LR := by decide
@[simp] theorem LR_ne_SP : LR ≠ SP := by decide
@[simp] theorem low_inj (r q : LowReg) : low r = low q ↔ r = q := by revert r q; decide

/-! ## Registers -/

@[simp] theorem reg_setReg (s : State) (r q : RegNum) (v : Word) :
    (s.setReg r v).reg q = if r = q then v else s.reg q := by
  simp [State.reg, State.setReg, Vector.getElem_set, BitVec.toNat_inj]

@[simp] theorem pc_setReg (s : State) (r : RegNum) (v : Word) :
    (s.setReg r v).pc = if r = PC then v else s.pc := reg_setReg s r PC v

theorem setReg_self (s : State) (r : RegNum) : s.setReg r (s.reg r) = s := by
  simp [State.setReg, State.reg]

@[simp] theorem reg_writePC (s : State) (q : RegNum) (v : Word) :
    (s.writePC v).reg q = if PC = q then clearBit0 v else s.reg q := reg_setReg s PC q (clearBit0 v)

@[simp] theorem pc_writePC (s : State) (v : Word) : (s.writePC v).pc = clearBit0 v := by
  simp [State.pc]

@[simp] theorem setLow_eq (s : State) (r : LowReg) (v : Word) : s.setLow r v = s.setReg (low r) v := rfl

@[simp] theorem lowReg_eq (s : State) (r : LowReg) : s.lowReg r = s.reg (low r) := rfl

theorem setHigh_pc (s : State) (v : Word) : s.setHigh PC v = s.writePC v := rfl

theorem setHigh_of_ne (s : State) (r : RegNum) (v : Word) (h : r ≠ PC) : s.setHigh r v = s.setReg r v := by
  simp [State.setHigh, h]

theorem operand_pc (s : State) : s.operand PC = s.pc + 4#32 := rfl

theorem operand_of_ne (s : State) (r : RegNum) (h : r ≠ PC) : s.operand r = s.reg r := by
  simp [State.operand, h]

/-- A PC write leaves PC even (R31, R106). -/
@[simp] theorem clearBit0_even (v : Word) : (clearBit0 v).getLsbD 0 = false := by
  simp [clearBit0]

/-! ## The fields -/

@[simp] theorem setReg_apsr (s : State) (r : RegNum) (v : Word) : (s.setReg r v).apsr = s.apsr := rfl
@[simp] theorem setReg_run (s : State) (r : RegNum) (v : Word) : (s.setReg r v).run = s.run := rfl
@[simp] theorem setReg_fault (s : State) (r : RegNum) (v : Word) : (s.setReg r v).fault = s.fault := rfl
@[simp] theorem setReg_mem (s : State) (r : RegNum) (v : Word) : (s.setReg r v).mem = s.mem := rfl
@[simp] theorem setReg_wrotePC (s : State) (r : RegNum) (v : Word) : (s.setReg r v).wrotePC = s.wrotePC := rfl
@[simp] theorem setReg_params (s : State) (r : RegNum) (v : Word) : (s.setReg r v).params = s.params := rfl
@[simp] theorem setReg_draws (s : State) (r : RegNum) (v : Word) : (s.setReg r v).draws = s.draws := rfl
@[simp] theorem setReg_peek (s : State) (r : RegNum) (v : Word) (x : Word) : (s.setReg r v).peek x = s.peek x := rfl
@[simp] theorem setReg_flagN (s : State) (r : RegNum) (v : Word) : (s.setReg r v).flagN = s.flagN := rfl
@[simp] theorem setReg_flagZ (s : State) (r : RegNum) (v : Word) : (s.setReg r v).flagZ = s.flagZ := rfl
@[simp] theorem setReg_flagC (s : State) (r : RegNum) (v : Word) : (s.setReg r v).flagC = s.flagC := rfl
@[simp] theorem setReg_flagV (s : State) (r : RegNum) (v : Word) : (s.setReg r v).flagV = s.flagV := rfl
@[simp] theorem setReg_region (s : State) (r : RegNum) (v : Word) (x : Word) : (s.setReg r v).region x = s.region x := rfl
@[simp] theorem setReg_mapped (s : State) (r : RegNum) (v : Word) (x : Word) : (s.setReg r v).mapped x = s.mapped x := rfl
@[simp] theorem setReg_plain (s : State) (r : RegNum) (v : Word) (x : Word) : (s.setReg r v).plain x = s.plain x := rfl
@[simp] theorem setReg_writable (s : State) (r : RegNum) (v : Word) (x : Word) : (s.setReg r v).writable x = s.writable x := rfl

@[simp] theorem writePC_apsr (s : State) (v : Word) : (s.writePC v).apsr = s.apsr := rfl
@[simp] theorem writePC_run (s : State) (v : Word) : (s.writePC v).run = s.run := rfl
@[simp] theorem writePC_fault (s : State) (v : Word) : (s.writePC v).fault = s.fault := rfl
@[simp] theorem writePC_mem (s : State) (v : Word) : (s.writePC v).mem = s.mem := rfl
@[simp] theorem writePC_wrotePC (s : State) (v : Word) : (s.writePC v).wrotePC = true := rfl
@[simp] theorem writePC_params (s : State) (v : Word) : (s.writePC v).params = s.params := rfl
@[simp] theorem writePC_draws (s : State) (v : Word) : (s.writePC v).draws = s.draws := rfl
@[simp] theorem writePC_peek (s : State) (v : Word) (x : Word) : (s.writePC v).peek x = s.peek x := rfl
@[simp] theorem writePC_flagN (s : State) (v : Word) : (s.writePC v).flagN = s.flagN := rfl
@[simp] theorem writePC_flagZ (s : State) (v : Word) : (s.writePC v).flagZ = s.flagZ := rfl
@[simp] theorem writePC_flagC (s : State) (v : Word) : (s.writePC v).flagC = s.flagC := rfl
@[simp] theorem writePC_flagV (s : State) (v : Word) : (s.writePC v).flagV = s.flagV := rfl
@[simp] theorem writePC_region (s : State) (v : Word) (x : Word) : (s.writePC v).region x = s.region x := rfl
@[simp] theorem writePC_mapped (s : State) (v : Word) (x : Word) : (s.writePC v).mapped x = s.mapped x := rfl
@[simp] theorem writePC_plain (s : State) (v : Word) (x : Word) : (s.writePC v).plain x = s.plain x := rfl
@[simp] theorem writePC_writable (s : State) (v : Word) (x : Word) : (s.writePC v).writable x = s.writable x := rfl

@[simp] theorem setNZCV_run (s : State) (n z c v : Bool) : (s.setNZCV n z c v).run = s.run := rfl
@[simp] theorem setNZCV_fault (s : State) (n z c v : Bool) : (s.setNZCV n z c v).fault = s.fault := rfl
@[simp] theorem setNZCV_mem (s : State) (n z c v : Bool) : (s.setNZCV n z c v).mem = s.mem := rfl
@[simp] theorem setNZCV_wrotePC (s : State) (n z c v : Bool) : (s.setNZCV n z c v).wrotePC = s.wrotePC := rfl
@[simp] theorem setNZCV_params (s : State) (n z c v : Bool) : (s.setNZCV n z c v).params = s.params := rfl
@[simp] theorem setNZCV_draws (s : State) (n z c v : Bool) : (s.setNZCV n z c v).draws = s.draws := rfl
@[simp] theorem setNZCV_reg (s : State) (n z c v : Bool) (q : RegNum) : (s.setNZCV n z c v).reg q = s.reg q := rfl
@[simp] theorem setNZCV_pc (s : State) (n z c v : Bool) : (s.setNZCV n z c v).pc = s.pc := rfl
@[simp] theorem setNZCV_peek (s : State) (n z c v : Bool) (x : Word) : (s.setNZCV n z c v).peek x = s.peek x := rfl
@[simp] theorem setNZCV_region (s : State) (n z c v : Bool) (x : Word) : (s.setNZCV n z c v).region x = s.region x := rfl
@[simp] theorem setNZCV_mapped (s : State) (n z c v : Bool) (x : Word) : (s.setNZCV n z c v).mapped x = s.mapped x := rfl
@[simp] theorem setNZCV_plain (s : State) (n z c v : Bool) (x : Word) : (s.setNZCV n z c v).plain x = s.plain x := rfl
@[simp] theorem setNZCV_writable (s : State) (n z c v : Bool) (x : Word) : (s.setNZCV n z c v).writable x = s.writable x := rfl

@[simp] theorem nextDraw_apsr (s : State) : (s.nextDraw).apsr = s.apsr := rfl
@[simp] theorem nextDraw_run (s : State) : (s.nextDraw).run = s.run := rfl
@[simp] theorem nextDraw_fault (s : State) : (s.nextDraw).fault = s.fault := rfl
@[simp] theorem nextDraw_mem (s : State) : (s.nextDraw).mem = s.mem := rfl
@[simp] theorem nextDraw_wrotePC (s : State) : (s.nextDraw).wrotePC = s.wrotePC := rfl
@[simp] theorem nextDraw_params (s : State) : (s.nextDraw).params = s.params := rfl
@[simp] theorem nextDraw_draws (s : State) : (s.nextDraw).draws = s.draws + 1 := rfl
@[simp] theorem nextDraw_reg (s : State) (q : RegNum) : (s.nextDraw).reg q = s.reg q := rfl
@[simp] theorem nextDraw_pc (s : State) : (s.nextDraw).pc = s.pc := rfl
@[simp] theorem nextDraw_peek (s : State) (x : Word) : (s.nextDraw).peek x = s.peek x := rfl
@[simp] theorem nextDraw_flagN (s : State) : (s.nextDraw).flagN = s.flagN := rfl
@[simp] theorem nextDraw_flagZ (s : State) : (s.nextDraw).flagZ = s.flagZ := rfl
@[simp] theorem nextDraw_flagC (s : State) : (s.nextDraw).flagC = s.flagC := rfl
@[simp] theorem nextDraw_flagV (s : State) : (s.nextDraw).flagV = s.flagV := rfl
@[simp] theorem nextDraw_region (s : State) (x : Word) : (s.nextDraw).region x = s.region x := rfl
@[simp] theorem nextDraw_mapped (s : State) (x : Word) : (s.nextDraw).mapped x = s.mapped x := rfl
@[simp] theorem nextDraw_plain (s : State) (x : Word) : (s.nextDraw).plain x = s.plain x := rfl
@[simp] theorem nextDraw_writable (s : State) (x : Word) : (s.nextDraw).writable x = s.writable x := rfl

@[simp] theorem poke_apsr (s : State) (a : Word) (b : Byte) : (s.poke a b).apsr = s.apsr := rfl
@[simp] theorem poke_run (s : State) (a : Word) (b : Byte) : (s.poke a b).run = s.run := rfl
@[simp] theorem poke_fault (s : State) (a : Word) (b : Byte) : (s.poke a b).fault = s.fault := rfl
@[simp] theorem poke_mem (s : State) (a : Word) (b : Byte) : (s.poke a b).mem = s.mem.store a.toNat b := rfl
@[simp] theorem poke_wrotePC (s : State) (a : Word) (b : Byte) : (s.poke a b).wrotePC = s.wrotePC := rfl
@[simp] theorem poke_params (s : State) (a : Word) (b : Byte) : (s.poke a b).params = s.params := rfl
@[simp] theorem poke_draws (s : State) (a : Word) (b : Byte) : (s.poke a b).draws = s.draws := rfl
@[simp] theorem poke_reg (s : State) (a : Word) (b : Byte) (q : RegNum) : (s.poke a b).reg q = s.reg q := rfl
@[simp] theorem poke_pc (s : State) (a : Word) (b : Byte) : (s.poke a b).pc = s.pc := rfl
@[simp] theorem poke_flagN (s : State) (a : Word) (b : Byte) : (s.poke a b).flagN = s.flagN := rfl
@[simp] theorem poke_flagZ (s : State) (a : Word) (b : Byte) : (s.poke a b).flagZ = s.flagZ := rfl
@[simp] theorem poke_flagC (s : State) (a : Word) (b : Byte) : (s.poke a b).flagC = s.flagC := rfl
@[simp] theorem poke_flagV (s : State) (a : Word) (b : Byte) : (s.poke a b).flagV = s.flagV := rfl
@[simp] theorem poke_region (s : State) (a : Word) (b : Byte) (x : Word) : (s.poke a b).region x = s.region x := rfl
@[simp] theorem poke_mapped (s : State) (a : Word) (b : Byte) (x : Word) : (s.poke a b).mapped x = s.mapped x := rfl
@[simp] theorem poke_plain (s : State) (a : Word) (b : Byte) (x : Word) : (s.poke a b).plain x = s.plain x := rfl
@[simp] theorem poke_writable (s : State) (a : Word) (b : Byte) (x : Word) : (s.poke a b).writable x = s.writable x := rfl

@[simp] theorem clear_apsr (s : State) : (s.clear).apsr = s.apsr := rfl
@[simp] theorem clear_run (s : State) : (s.clear).run = s.run := rfl
@[simp] theorem clear_fault (s : State) : (s.clear).fault = s.fault := rfl
@[simp] theorem clear_mem (s : State) : (s.clear).mem = [] := rfl
@[simp] theorem clear_wrotePC (s : State) : (s.clear).wrotePC = s.wrotePC := rfl
@[simp] theorem clear_params (s : State) : (s.clear).params = s.params := rfl
@[simp] theorem clear_draws (s : State) : (s.clear).draws = s.draws := rfl
@[simp] theorem clear_reg (s : State) (q : RegNum) : (s.clear).reg q = s.reg q := rfl
@[simp] theorem clear_pc (s : State) : (s.clear).pc = s.pc := rfl
@[simp] theorem clear_flagN (s : State) : (s.clear).flagN = s.flagN := rfl
@[simp] theorem clear_flagZ (s : State) : (s.clear).flagZ = s.flagZ := rfl
@[simp] theorem clear_flagC (s : State) : (s.clear).flagC = s.flagC := rfl
@[simp] theorem clear_flagV (s : State) : (s.clear).flagV = s.flagV := rfl
@[simp] theorem clear_region (s : State) (x : Word) : (s.clear).region x = s.region x := rfl
@[simp] theorem clear_mapped (s : State) (x : Word) : (s.clear).mapped x = s.mapped x := rfl
@[simp] theorem clear_plain (s : State) (x : Word) : (s.clear).plain x = s.plain x := rfl
@[simp] theorem clear_writable (s : State) (x : Word) : (s.clear).writable x = s.writable x := rfl

@[simp] theorem raise_apsr (s : State) (f : FaultRecord) : (s.raise f).apsr = s.apsr := rfl
@[simp] theorem raise_run (s : State) (f : FaultRecord) : (s.raise f).run = .halted := rfl
@[simp] theorem raise_fault (s : State) (f : FaultRecord) : (s.raise f).fault = some f := rfl
@[simp] theorem raise_mem (s : State) (f : FaultRecord) : (s.raise f).mem = s.mem := rfl
@[simp] theorem raise_wrotePC (s : State) (f : FaultRecord) : (s.raise f).wrotePC = s.wrotePC := rfl
@[simp] theorem raise_params (s : State) (f : FaultRecord) : (s.raise f).params = s.params := rfl
@[simp] theorem raise_draws (s : State) (f : FaultRecord) : (s.raise f).draws = s.draws := rfl
@[simp] theorem raise_reg (s : State) (f : FaultRecord) (q : RegNum) : (s.raise f).reg q = s.reg q := rfl
@[simp] theorem raise_pc (s : State) (f : FaultRecord) : (s.raise f).pc = s.pc := rfl
@[simp] theorem raise_peek (s : State) (f : FaultRecord) (x : Word) : (s.raise f).peek x = s.peek x := rfl
@[simp] theorem raise_flagN (s : State) (f : FaultRecord) : (s.raise f).flagN = s.flagN := rfl
@[simp] theorem raise_flagZ (s : State) (f : FaultRecord) : (s.raise f).flagZ = s.flagZ := rfl
@[simp] theorem raise_flagC (s : State) (f : FaultRecord) : (s.raise f).flagC = s.flagC := rfl
@[simp] theorem raise_flagV (s : State) (f : FaultRecord) : (s.raise f).flagV = s.flagV := rfl
@[simp] theorem raise_region (s : State) (f : FaultRecord) (x : Word) : (s.raise f).region x = s.region x := rfl
@[simp] theorem raise_mapped (s : State) (f : FaultRecord) (x : Word) : (s.raise f).mapped x = s.mapped x := rfl
@[simp] theorem raise_plain (s : State) (f : FaultRecord) (x : Word) : (s.raise f).plain x = s.plain x := rfl
@[simp] theorem raise_writable (s : State) (f : FaultRecord) (x : Word) : (s.raise f).writable x = s.writable x := rfl

@[simp] theorem halt_apsr (s : State) : (s.halt).apsr = s.apsr := rfl
@[simp] theorem halt_run (s : State) : (s.halt).run = .halted := rfl
@[simp] theorem halt_fault (s : State) : (s.halt).fault = s.fault := rfl
@[simp] theorem halt_mem (s : State) : (s.halt).mem = s.mem := rfl
@[simp] theorem halt_wrotePC (s : State) : (s.halt).wrotePC = s.wrotePC := rfl
@[simp] theorem halt_params (s : State) : (s.halt).params = s.params := rfl
@[simp] theorem halt_draws (s : State) : (s.halt).draws = s.draws := rfl
@[simp] theorem halt_reg (s : State) (q : RegNum) : (s.halt).reg q = s.reg q := rfl
@[simp] theorem halt_pc (s : State) : (s.halt).pc = s.pc := rfl
@[simp] theorem halt_peek (s : State) (x : Word) : (s.halt).peek x = s.peek x := rfl
@[simp] theorem halt_flagN (s : State) : (s.halt).flagN = s.flagN := rfl
@[simp] theorem halt_flagZ (s : State) : (s.halt).flagZ = s.flagZ := rfl
@[simp] theorem halt_flagC (s : State) : (s.halt).flagC = s.flagC := rfl
@[simp] theorem halt_flagV (s : State) : (s.halt).flagV = s.flagV := rfl
@[simp] theorem halt_region (s : State) (x : Word) : (s.halt).region x = s.region x := rfl
@[simp] theorem halt_mapped (s : State) (x : Word) : (s.halt).mapped x = s.mapped x := rfl
@[simp] theorem halt_plain (s : State) (x : Word) : (s.halt).plain x = s.plain x := rfl
@[simp] theorem halt_writable (s : State) (x : Word) : (s.halt).writable x = s.writable x := rfl

@[simp] theorem beginCycle_apsr (s : State) : (s.beginCycle).apsr = s.apsr := rfl
@[simp] theorem beginCycle_run (s : State) : (s.beginCycle).run = s.run := rfl
@[simp] theorem beginCycle_fault (s : State) : (s.beginCycle).fault = s.fault := rfl
@[simp] theorem beginCycle_mem (s : State) : (s.beginCycle).mem = s.mem := rfl
@[simp] theorem beginCycle_wrotePC (s : State) : (s.beginCycle).wrotePC = false := rfl
@[simp] theorem beginCycle_params (s : State) : (s.beginCycle).params = s.params := rfl
@[simp] theorem beginCycle_draws (s : State) : (s.beginCycle).draws = s.draws := rfl
@[simp] theorem beginCycle_reg (s : State) (q : RegNum) : (s.beginCycle).reg q = s.reg q := rfl
@[simp] theorem beginCycle_pc (s : State) : (s.beginCycle).pc = s.pc := rfl
@[simp] theorem beginCycle_peek (s : State) (x : Word) : (s.beginCycle).peek x = s.peek x := rfl
@[simp] theorem beginCycle_flagN (s : State) : (s.beginCycle).flagN = s.flagN := rfl
@[simp] theorem beginCycle_flagZ (s : State) : (s.beginCycle).flagZ = s.flagZ := rfl
@[simp] theorem beginCycle_flagC (s : State) : (s.beginCycle).flagC = s.flagC := rfl
@[simp] theorem beginCycle_flagV (s : State) : (s.beginCycle).flagV = s.flagV := rfl
@[simp] theorem beginCycle_region (s : State) (x : Word) : (s.beginCycle).region x = s.region x := rfl
@[simp] theorem beginCycle_mapped (s : State) (x : Word) : (s.beginCycle).mapped x = s.mapped x := rfl
@[simp] theorem beginCycle_plain (s : State) (x : Word) : (s.beginCycle).plain x = s.plain x := rfl
@[simp] theorem beginCycle_writable (s : State) (x : Word) : (s.beginCycle).writable x = s.writable x := rfl

/-! ## The flags -/

@[simp] theorem setNZCV_flagN (s : State) (n z c v : Bool) : (s.setNZCV n z c v).flagN = n := by
  simp only [State.flagN, State.setNZCV, BitVec.getLsbD_setWidth, BitVec.getLsbD_append]
  cases n <;> cases z <;> cases c <;> cases v <;> rfl

@[simp] theorem setNZCV_flagZ (s : State) (n z c v : Bool) : (s.setNZCV n z c v).flagZ = z := by
  simp only [State.flagZ, State.setNZCV, BitVec.getLsbD_setWidth, BitVec.getLsbD_append]
  cases n <;> cases z <;> cases c <;> cases v <;> rfl

@[simp] theorem setNZCV_flagC (s : State) (n z c v : Bool) : (s.setNZCV n z c v).flagC = c := by
  simp only [State.flagC, State.setNZCV, BitVec.getLsbD_setWidth, BitVec.getLsbD_append]
  cases n <;> cases z <;> cases c <;> cases v <;> rfl

@[simp] theorem setNZCV_flagV (s : State) (n z c v : Bool) : (s.setNZCV n z c v).flagV = v := by
  simp only [State.flagV, State.setNZCV, BitVec.getLsbD_setWidth, BitVec.getLsbD_append]
  cases n <;> cases z <;> cases c <;> cases v <;> rfl

/-- No flag write touches bits 27 to 0 of APSR (R25). -/
@[simp] theorem setNZCV_low (s : State) (n z c v : Bool) :
    (s.setNZCV n z c v).apsr.extractLsb' 0 28 = s.apsr.extractLsb' 0 28 := by
  apply BitVec.eq_of_getLsbD_eq
  intro i hi
  have h32 : i < 32 := by omega
  simp only [State.setNZCV, BitVec.getLsbD_extractLsb', BitVec.getLsbD_setWidth, BitVec.getLsbD_append, Nat.zero_add]
  simp [hi, h32]

@[simp] theorem setFlags_eq (s : State) (r : AluResult) : s.setFlags r = s.setNZCV r.n r.z r.c r.v := rfl

@[simp] theorem setNZ_eq (s : State) (r : Word) :
    s.setNZ r = s.setNZCV (isNegative r) (isZero r) s.flagC s.flagV := rfl

@[simp] theorem setNZC_eq (s : State) (r : Word) (c : Bool) :
    s.setNZC r c = s.setNZCV (isNegative r) (isZero r) c s.flagV := rfl

/-! ## The host's register write -/

@[simp] theorem hostSetReg_run (s : State) (r : HostReg) (v : Word) : (s.hostSetReg r v).run = s.run := by cases r <;> rfl
@[simp] theorem hostSetReg_fault (s : State) (r : HostReg) (v : Word) : (s.hostSetReg r v).fault = s.fault := by cases r <;> rfl
@[simp] theorem hostSetReg_mem (s : State) (r : HostReg) (v : Word) : (s.hostSetReg r v).mem = s.mem := by cases r <;> rfl
@[simp] theorem hostSetReg_wrotePC (s : State) (r : HostReg) (v : Word) : (s.hostSetReg r v).wrotePC = s.wrotePC := by
  cases r <;> rfl
@[simp] theorem hostSetReg_params (s : State) (r : HostReg) (v : Word) : (s.hostSetReg r v).params = s.params := by
  cases r <;> rfl
@[simp] theorem hostSetReg_draws (s : State) (r : HostReg) (v : Word) : (s.hostSetReg r v).draws = s.draws := by cases r <;> rfl
@[simp] theorem hostSetReg_peek (s : State) (r : HostReg) (v x : Word) : (s.hostSetReg r v).peek x = s.peek x := by
  cases r <;> rfl
@[simp] theorem hostSetReg_apsr (s : State) (v : Word) : (s.hostSetReg .apsr v).apsr = v := rfl
@[simp] theorem hostSetReg_apsr_reg (s : State) (v : Word) (q : RegNum) : (s.hostSetReg .apsr v).reg q = s.reg q := rfl
@[simp] theorem hostSetReg_general_apsr (s : State) (r : RegNum) (v : Word) :
    (s.hostSetReg (.general r) v).apsr = s.apsr := rfl
@[simp] theorem hostSetReg_general_reg (s : State) (r q : RegNum) (v : Word) :
    (s.hostSetReg (.general r) v).reg q = if r = q then (if r = PC then clearBit0 v else v) else s.reg q := by
  simp [State.hostSetReg]

/-! ## Reset -/

@[simp] theorem resetWith_apsr (p : Params) : (State.resetWith p).apsr = 0#32 := rfl
@[simp] theorem resetWith_run (p : Params) : (State.resetWith p).run = .idle := rfl
@[simp] theorem resetWith_fault (p : Params) : (State.resetWith p).fault = none := rfl
@[simp] theorem resetWith_mem (p : Params) : (State.resetWith p).mem = [] := rfl
@[simp] theorem resetWith_wrotePC (p : Params) : (State.resetWith p).wrotePC = false := rfl
@[simp] theorem resetWith_params (p : Params) : (State.resetWith p).params = p := rfl
@[simp] theorem resetWith_draws (p : Params) : (State.resetWith p).draws = 0 := rfl
@[simp] theorem resetWith_pc (p : Params) : (State.resetWith p).pc = Config.codeEntry := rfl
@[simp] theorem resetWith_SP (p : Params) : (State.resetWith p).reg SP = p.resetSp := rfl
@[simp] theorem resetWith_LR (p : Params) : (State.resetWith p).reg LR = 0#32 := rfl

@[simp] theorem resetWith_general (p : Params) (r : RegNum) (h : r.toNat ≤ 12) : (State.resetWith p).reg r = 0#32 := by
  have : ∀ r : RegNum, r.toNat ≤ 12 → (State.resetWith p).reg r = 0#32 := by
    intro r
    have h16 : r = 0 ∨ r = 1 ∨ r = 2 ∨ r = 3 ∨ r = 4 ∨ r = 5 ∨ r = 6 ∨ r = 7 ∨ r = 8 ∨ r = 9 ∨ r = 10 ∨ r = 11 ∨
        r = 12 ∨ 12 < r.toNat := by revert r; decide
    rcases h16 with h | h | h | h | h | h | h | h | h | h | h | h | h | h <;> first | (subst h; intro _; rfl) | omega
  exact this r h

end Sys2Proof.Machine
end

