-- ==== Sys2Proof/Laws/Memory.lean ====
section
/-! SUPPORT. Memory as data: a byte reads back what was stored, every other byte is as before, and every memory operation
keeps the canonical form. -/

namespace Sys2Proof.Machine

/-! ## One byte -/

theorem lookup_store (m : Memory) (a x : Nat) (b : Byte) :
    (Memory.store m a b).lookup x = if a = x then some b else m.lookup x := by
  induction m with
  | nil => by_cases h : a = x <;> simp [Memory.store, Memory.lookup, h]
  | cons c m ih =>
    obtain ⟨k, v⟩ := c
    unfold Memory.store
    split
    · by_cases h : a = x <;> simp [Memory.lookup, h]
    · split
      · rename_i hk
        subst hk
        by_cases h : a = x <;> simp [Memory.lookup, h]
      · rename_i hlt hne
        simp only [Memory.lookup, ih]
        by_cases hk : k = x
        · have : a ≠ x := by omega
          simp [hk, this]
        · simp [hk]

theorem mem_store (m : Memory) (a : Nat) (b : Byte) (c : Host.Cell) (h : c ∈ Memory.store m a b) :
    c = (a, b) ∨ c ∈ m := by
  induction m with
  | nil => simpa [Memory.store] using h
  | cons d m ih =>
    obtain ⟨k, v⟩ := d
    unfold Memory.store at h
    split at h
    · simpa using h
    · split at h
      · simp only [List.mem_cons] at h ⊢
        tauto
      · simp only [List.mem_cons] at h ⊢
        rcases h with h | h
        · exact .inr (.inl h)
        · rcases ih h with h | h
          · exact .inl h
          · exact .inr (.inr h)

/-- The canonical form in the shape that induction uses: the first address is below every later one. -/
theorem wf_cons (c : Host.Cell) (m : Memory) :
    Memory.wf (c :: m) ↔ (∀ d ∈ m, c.1 < d.1) ∧ c.1 < 2 ^ 32 ∧ Memory.wf m := by
  simp only [Memory.wf, List.map_cons, List.pairwise_cons, List.mem_map, List.mem_cons, forall_exists_index, and_imp,
    forall_apply_eq_imp_iff₂, forall_eq_or_imp]
  tauto

/-- Storing a byte keeps the canonical form. -/
theorem wf_store (m : Memory) (a : Nat) (b : Byte) (ha : a < 2 ^ 32) (h : m.wf) : Memory.wf (Memory.store m a b) := by
  induction m with
  | nil => simpa [Memory.store, Memory.wf] using ha
  | cons c m ih =>
    obtain ⟨k, v⟩ := c
    obtain ⟨h1, h2, h3⟩ := (wf_cons _ _).mp h
    unfold Memory.store
    split
    · rename_i hlt
      refine (wf_cons _ _).mpr ⟨?_, ha, h⟩
      intro d hd
      rcases List.mem_cons.mp hd with rfl | hd
      · exact hlt
      · exact lt_trans hlt (h1 d hd)
    · split
      · rename_i hk
        subst hk
        exact (wf_cons _ _).mpr ⟨h1, h2, h3⟩
      · rename_i hlt hne
        refine (wf_cons _ _).mpr ⟨?_, h2, ih h3⟩
        intro d hd
        rcases mem_store m a b d hd with rfl | hd
        · show k < a
          omega
        · exact h1 d hd

theorem wf_nil : Memory.wf [] := by simp [Memory.wf]

/-- The byte stored at an address is the byte it reads as; every other address reads as before. -/
theorem peek_poke (s : State) (a x : Word) (b : Byte) :
    (s.poke a b).peek x = if a = x then some b else s.peek x := by
  simp [State.peek, lookup_store, BitVec.toNat_inj]

theorem wf_poke (s : State) (a : Word) (b : Byte) (h : s.mem.wf) : (s.poke a b).mem.wf :=
  wf_store s.mem a.toNat b a.isLt h

/-! ## The memory an operation leaves -/

/-- A core write of one byte changes memory only. -/
theorem writeByte_eq (s : State) (a : Word) (b : Byte) : s.writeByte a b = { s with mem := (s.writeByte a b).mem } := by
  unfold State.writeByte
  split <;> rfl

theorem peek_writeByte (s : State) (a x : Word) (b : Byte) :
    (s.writeByte a b).peek x = if a = x ∧ s.writable a = true then some b else s.peek x := by
  unfold State.writeByte
  by_cases h : s.writable a = true
  · simp [h, peek_poke]
  · simp [h]

theorem wf_writeByte (s : State) (a : Word) (b : Byte) (h : s.mem.wf) : (s.writeByte a b).mem.wf := by
  unfold State.writeByte
  split
  · exact wf_poke s a b h
  · exact h

/-- A core write of bytes changes memory only. -/
theorem writeBytes_eq (bs : List Byte) (a : Word) (s : State) :
    State.writeBytes bs a s = { s with mem := (State.writeBytes bs a s).mem } := by
  induction bs generalizing a s with
  | nil => rfl
  | cons b bs ih =>
    simp only [State.writeBytes]
    rw [ih, writeByte_eq]

theorem wf_writeBytes (bs : List Byte) (a : Word) (s : State) (h : s.mem.wf) : (State.writeBytes bs a s).mem.wf := by
  induction bs generalizing a s with
  | nil => exact h
  | cons b bs ih => exact ih _ _ (wf_writeByte s a b h)

/-- Storing words changes memory only. -/
theorem storeWords_eq (l : List (Word × Word)) (s : State) :
    State.storeWords l s = { s with mem := (State.storeWords l s).mem } := by
  induction l generalizing s with
  | nil => rfl
  | cons p l ih =>
    obtain ⟨a, v⟩ := p
    simp only [State.storeWords]
    rw [ih, writeBytes_eq]

theorem wf_storeWords (l : List (Word × Word)) (s : State) (h : s.mem.wf) : (State.storeWords l s).mem.wf := by
  induction l generalizing s with
  | nil => exact h
  | cons p l ih => exact ih _ (wf_writeBytes _ _ s h)

/-- The stores before the fault of a PUSH change memory and the count of draws only. -/
theorem storeSome_eq (l : List (Word × Word)) (s : State) :
    State.storeSome l s = { s with mem := (State.storeSome l s).mem, draws := (State.storeSome l s).draws } := by
  induction l generalizing s with
  | nil => rfl
  | cons p l ih =>
    obtain ⟨a, v⟩ := p
    simp only [State.storeSome]
    rw [ih]
    rfl

theorem wf_storeSome (l : List (Word × Word)) (s : State) (h : s.mem.wf) : (State.storeSome l s).mem.wf := by
  induction l generalizing s with
  | nil => exact h
  | cons p l ih =>
    refine ih _ ?_
    show Memory.wf (if _ then _ else _)
    split
    · exact wf_writeBytes _ _ s h
    · exact h

theorem wf_pokeBytes (bs : List Byte) (a : Word) (s : State) (h : s.mem.wf) : (State.pokeBytes bs a s).mem.wf := by
  induction bs generalizing a s with
  | nil => exact h
  | cons b bs ih => exact ih _ _ (wf_poke s a b h)

/-! ## Reads -/

/-- A read changes at most the count of draws. -/
theorem readByte_eq (s : State) (a : Word) : (s.readByte a).2 = { s with draws := (s.readByte a).2.draws } := by
  unfold State.readByte
  split
  · split <;> rfl
  · rfl

/-- A read of a byte that memory holds, in RAM or flash, answers that byte and changes nothing (R44). -/
theorem readByte_held (s : State) (a : Word) (b : Byte) (hp : s.plain a = true) (h : s.peek a = some b) :
    s.readByte a = (b, s) := by
  simp [State.readByte, hp, h]

theorem readBytes_eq (n : Nat) (a : Word) (s : State) :
    (State.readBytes n a s).2 = { s with draws := (State.readBytes n a s).2.draws } := by
  induction n generalizing a s with
  | zero => rfl
  | succ n ih =>
    simp only [State.readBytes]
    rw [ih, readByte_eq]

theorem readBytes_length (n : Nat) (a : Word) (s : State) : (State.readBytes n a s).1.length = n := by
  induction n generalizing a s with
  | zero => rfl
  | succ n ih => simp [State.readBytes, ih]

theorem loadWords_eq (as : List Word) (s : State) :
    (State.loadWords as s).2 = { s with draws := (State.loadWords as s).2.draws } := by
  induction as generalizing s with
  | nil => rfl
  | cons a as ih =>
    simp only [State.loadWords]
    rw [ih, readBytes_eq]

theorem loadWords_length (as : List Word) (s : State) : (State.loadWords as s).1.length = as.length := by
  induction as generalizing s with
  | nil => rfl
  | cons a as ih => simp [State.loadWords, ih]

/-! ## The host's image load -/

theorem wf_loadByte (s t : State) (a : Word) (b : Byte) (h : s.mem.wf) (ht : s.loadByte a b = .ok t) : t.mem.wf := by
  unfold State.loadByte at ht
  split at ht
  · obtain rfl := Except.ok.inj ht
    split
    · exact h
    · exact wf_poke s a b h
  · cases ht

theorem wf_loadBytes (bs : List Byte) (a : Word) (s t : State) (h : s.mem.wf) (ht : State.loadBytes bs a s = .ok t) :
    t.mem.wf := by
  induction bs generalizing a s with
  | nil =>
    obtain rfl := Except.ok.inj ht
    exact h
  | cons b bs ih =>
    simp only [State.loadBytes] at ht
    split at ht
    · rename_i s1 h1
      exact ih _ _ (wf_loadByte s s1 a b h h1) ht
    · cases ht

theorem wf_loadSegments (content : List Byte) (gs : List Segment) (s t : State) (h : s.mem.wf)
    (ht : State.loadSegments content gs s = .ok t) : t.mem.wf := by
  induction gs generalizing s with
  | nil =>
    obtain rfl := Except.ok.inj ht
    exact h
  | cons g gs ih =>
    simp only [State.loadSegments] at ht
    split at ht
    · split at ht
      · rename_i s1 h1
        exact ih _ (wf_loadBytes _ _ s s1 h h1) ht
      · cases ht
    · cases ht

/-- The memory of the reset state is in its canonical form. -/
theorem wf_reset : State.reset.mem.wf := wf_nil

end Sys2Proof.Machine
end

