-- ==== Sys2Proof/Laws/Ops.lean ====
section
/-! SUPPORT. What each shared operation can do, said once: the access check, reads and writes, loads and stores, the words
of PUSH and POP, the fetch, the end of the cycle, and the step. -/

namespace Sys2Proof.Machine

/-! ## The access check -/

/-- Every byte of an access is mapped, said byte by byte. -/
theorem allMapped_iff (s : State) (n : Nat) (a : Word) :
    s.allMapped n a = true ↔ ∀ k < n, s.mapped (a + BitVec.ofNat 32 k) = true := by
  induction n generalizing a with
  | zero => simp [State.allMapped]
  | succ n ih =>
    have hstep : ∀ k : Nat, a + 1#32 + BitVec.ofNat 32 k = a + BitVec.ofNat 32 (k + 1) := by
      intro k
      apply BitVec.eq_of_toNat_eq
      simp only [BitVec.toNat_add, BitVec.toNat_ofNat]
      omega
    simp only [State.allMapped, Bool.and_eq_true, ih, hstep]
    constructor
    · rintro ⟨h0, h⟩ k hk
      cases k with
      | zero => simpa using h0
      | succ k => exact h k (by omega)
    · intro h
      exact ⟨by simpa using h 0 (by omega), fun k hk => h (k + 1) (by omega)⟩

/-- The access check has three outcomes: alignment, then the memory map, then no fault (R44, R45). -/
theorem accessFault_cases (s : State) (acc : Access) (w : Width) (addr : Word) :
    (addr.toNat % w.bytes ≠ 0 ∧ s.accessFault acc w addr = some (.alignmentFault s.pc addr w acc)) ∨
    (addr.toNat % w.bytes = 0 ∧ s.allMapped w.bytes addr = false ∧
      s.accessFault acc w addr = some (.memoryFault s.pc addr w acc)) ∨
    (addr.toNat % w.bytes = 0 ∧ s.allMapped w.bytes addr = true ∧ s.accessFault acc w addr = none) := by
  unfold State.accessFault
  by_cases h : addr.toNat % w.bytes = 0
  · by_cases hm : s.allMapped w.bytes addr = true <;> simp [h, hm]
  · simp [h]

/-- The check depends on PC and the memory map only. -/
theorem accessFault_congr (s t : State) (acc : Access) (w : Width) (addr : Word) (hp : t.pc = s.pc)
    (hm : t.params = s.params) : t.accessFault acc w addr = s.accessFault acc w addr := by
  have h : t.allMapped w.bytes addr = s.allMapped w.bytes addr := by
    rw [Bool.eq_iff_iff, allMapped_iff, allMapped_iff]
    simp [State.mapped, State.region, hm]
  simp [State.accessFault, hp, h]

/-! ## Reads and writes -/

/-- A read of the host's has three outcomes: misaligned, unmapped, or what a core read of that width answers (R280, R44). -/
theorem hostReadMemory_cases (s : State) (w : Width) (a : Word) :
    (a.toNat % w.bytes ≠ 0 ∧ s.hostReadMemory w a = .error (.hostMisaligned a)) ∨
    (a.toNat % w.bytes = 0 ∧ s.allMapped w.bytes a = false ∧ s.hostReadMemory w a = .error (.hostUnmapped a)) ∨
    (a.toNat % w.bytes = 0 ∧ s.allMapped w.bytes a = true ∧
      ∃ r, s.memRead .read w a = .ok r ∧ s.hostReadMemory w a = .ok r) := by
  rcases accessFault_cases s .read w a with ⟨h, hf⟩ | ⟨h, hm, hf⟩ | ⟨h, hm, hf⟩
  · exact .inl ⟨h, by simp [State.hostReadMemory, State.memRead, hf, h]⟩
  · exact .inr (.inl ⟨h, hm, by simp [State.hostReadMemory, State.memRead, hf, h]⟩)
  · exact .inr (.inr ⟨h, hm, by simp [State.hostReadMemory, State.memRead, hf]⟩)

/-- If a read answers, it passed the check and changed at most the count of draws (R44). -/
theorem memRead_ok (s t : State) (acc : Access) (w : Width) (addr v : Word) (h : s.memRead acc w addr = .ok (v, t)) :
    s.accessFault acc w addr = none ∧ v = BitVec.ofNat 32 (composeLE (State.readBytes w.bytes addr s).1) ∧
      t = (State.readBytes w.bytes addr s).2 ∧ t = { s with draws := t.draws } := by
  unfold State.memRead at h
  split at h
  · cases h
  · rename_i hf
    obtain ⟨rfl, rfl⟩ := Prod.mk.inj (Except.ok.inj h)
    exact ⟨hf, rfl, rfl, readBytes_eq _ _ _⟩

theorem memRead_error (s : State) (acc : Access) (w : Width) (addr : Word) (f : FaultRecord)
    (h : s.memRead acc w addr = .error f) : s.accessFault acc w addr = some f := by
  unfold State.memRead at h
  split at h
  · rename_i g hf
    obtain rfl := Except.error.inj h
    exact hf
  · cases h

/-- If a write answers, it passed the check and changed memory only (R45). -/
theorem memWrite_ok (s t : State) (w : Width) (addr v : Word) (h : s.memWrite w addr v = .ok t) :
    s.accessFault .write w addr = none ∧ t = State.writeBytes (splitLE w.bytes v) addr s ∧ t = { s with mem := t.mem } := by
  unfold State.memWrite at h
  split at h
  · cases h
  · rename_i hf
    obtain rfl := Except.ok.inj h
    exact ⟨hf, rfl, writeBytes_eq _ _ _⟩

theorem memWrite_error (s : State) (w : Width) (addr v : Word) (f : FaultRecord) (h : s.memWrite w addr v = .error f) :
    s.accessFault .write w addr = some f := by
  unfold State.memWrite at h
  split at h
  · rename_i g hf
    obtain rfl := Except.error.inj h
    exact hf
  · cases h

/-- A load takes the fault of its access, with nothing else changed, or reads and writes Rt (R200, R265). -/
theorem load_cases (s : State) (rt : LowReg) (w : Width) (e : LoadExtend) (ea : Word) :
    (∃ f, s.accessFault .read w ea = some f ∧ s.load rt w e ea = s.raise f) ∨
    (∃ v s1, s.memRead .read w ea = .ok (v, s1) ∧ s.load rt w e ea = s1.setReg (low rt) (extendLoaded e v)) := by
  unfold State.load
  cases h : s.memRead .read w ea with
  | error f => exact .inl ⟨f, memRead_error _ _ _ _ _ h, rfl⟩
  | ok p => exact .inr ⟨p.1, p.2, rfl, rfl⟩

/-- A store takes the fault of its access, with nothing else changed, or writes its bytes (R200, R265). -/
theorem store_cases (s : State) (rt : LowReg) (w : Width) (ea : Word) :
    (∃ f, s.accessFault .write w ea = some f ∧ s.store rt w ea = s.raise f) ∨
    (s.accessFault .write w ea = none ∧ s.store rt w ea = State.writeBytes (splitLE w.bytes (s.reg (low rt))) ea s) := by
  unfold State.store
  cases h : s.memWrite w ea (s.lowReg rt) with
  | error f => exact .inl ⟨f, memWrite_error _ _ _ _ _ h, rfl⟩
  | ok t =>
    obtain ⟨h1, h2, -⟩ := memWrite_ok _ _ _ _ _ h
    exact .inr ⟨h1, h2⟩

/-! ## Several words -/

/-- The accesses before the first fault are a prefix of the accesses; each passes the check, and the fault is that of the
next one (R267). -/
theorem beforeFault_cases (s : State) (acc : Access) (as : List Word) :
    ((s.beforeFault acc as) = (as, none) ∧ ∀ a ∈ as, s.accessFault acc .word a = none) ∨
    (∃ ok a rest f, as = ok ++ a :: rest ∧ s.beforeFault acc as = (ok, some f) ∧
      (∀ x ∈ ok, s.accessFault acc .word x = none) ∧ s.accessFault acc .word a = some f) := by
  induction as with
  | nil => exact .inl ⟨rfl, by simp⟩
  | cons a as ih =>
    cases h : s.accessFault acc .word a with
    | some f => exact .inr ⟨[], a, as, f, rfl, by simp [State.beforeFault, h], by simp, h⟩
    | none =>
      rcases ih with ⟨h1, h2⟩ | ⟨ok, b, rest, f, h1, h2, h3, h4⟩
      · exact .inl ⟨by simp [State.beforeFault, h, h1], by simpa [h] using h2⟩
      · exact .inr ⟨a :: ok, b, rest, f, by simp [h1], by simp [State.beforeFault, h, h2], by simpa [h] using h3, h4⟩

theorem wordAddrs_length (n : Nat) (a : Word) : (wordAddrs n a).length = n := by
  induction n generalizing a with
  | zero => rfl
  | succ n ih => simp [wordAddrs, ih]

/-- The `k`-th word address is `a + 4k`. -/
theorem wordAddrs_getElem? (n : Nat) (a : Word) (k : Nat) (h : k < n) :
    (wordAddrs n a)[k]? = some (a + BitVec.ofNat 32 (4 * k)) := by
  induction n generalizing a k with
  | zero => omega
  | succ n ih =>
    cases k with
    | zero => simp [wordAddrs]
    | succ k =>
      rw [wordAddrs, List.getElem?_cons_succ, ih _ _ (by omega)]
      congr 1
      apply BitVec.eq_of_toNat_eq
      simp only [BitVec.toNat_add, BitVec.toNat_ofNat]
      omega

/-- Writing registers changes registers only. -/
theorem setRegs_eq (l : List (RegNum × Word)) (s : State) :
    State.setRegs l s = { s with regs := (State.setRegs l s).regs } := by
  induction l generalizing s with
  | nil => rfl
  | cons p l ih =>
    obtain ⟨r, v⟩ := p
    simp only [State.setRegs]
    rw [ih]
    rfl

/-- A register that is not in the list keeps its value. -/
theorem setRegs_reg (l : List (RegNum × Word)) (s : State) (q : RegNum) (h : q ∉ l.map Prod.fst) :
    (State.setRegs l s).reg q = s.reg q := by
  induction l generalizing s with
  | nil => rfl
  | cons p l ih =>
    obtain ⟨r, v⟩ := p
    simp only [List.map_cons, List.mem_cons, not_or] at h
    rw [State.setRegs, ih _ h.2, reg_setReg, if_neg (Ne.symm h.1)]

/-- The partial loads of POP change registers and the count of draws only. -/
theorem setSome_eq (l : List (RegNum × Word)) (s : State) :
    State.setSome l s = { s with regs := (State.setSome l s).regs, draws := (State.setSome l s).draws } := by
  induction l generalizing s with
  | nil => rfl
  | cons p l ih =>
    obtain ⟨r, v⟩ := p
    simp only [State.setSome]
    rw [ih]
    rfl

theorem setSome_reg (l : List (RegNum × Word)) (s : State) (q : RegNum) (h : q ∉ l.map Prod.fst) :
    (State.setSome l s).reg q = s.reg q := by
  induction l generalizing s with
  | nil => rfl
  | cons p l ih =>
    obtain ⟨r, v⟩ := p
    simp only [List.map_cons, List.mem_cons, not_or] at h
    rw [State.setSome, ih _ h.2, reg_setReg, if_neg (Ne.symm h.1), nextDraw_reg]

/-- The listed registers are low ones. -/
theorem listedRegs_low (list : BitVec 8) (r : RegNum) (h : r ∈ listedRegs list) : r.toNat < 8 := by
  simp only [listedRegs, List.mem_filter] at h
  have hmem := h.1
  simp only [List.mem_cons, List.not_mem_nil, or_false] at hmem
  rcases hmem with rfl | rfl | rfl | rfl | rfl | rfl | rfl | rfl <;> decide

/-- What PUSH can do: the fault of an empty list, with nothing else changed; the stores of the whole block, then SP; or the
stores before a faulting access, each kept or not, and its fault (R231, R265, R266). -/
theorem push_cases (s : State) (lr : Bool) (list : BitVec 8) :
    (transferCount lr list = 0 ∧ s.push lr list = s.raise (.unpredictable s.pc 0xB400#16)) ∨
    (transferCount lr list ≠ 0 ∧
      (∀ a ∈ wordAddrs (transferCount lr list) (s.pushBase lr list), s.accessFault .write .word a = none) ∧
      s.push lr list =
        (State.storeWords ((wordAddrs (transferCount lr list) (s.pushBase lr list)).zip (s.pushed lr list)) s).setReg SP
          (s.pushBase lr list)) ∨
    (transferCount lr list ≠ 0 ∧ ∃ ok a rest f,
      wordAddrs (transferCount lr list) (s.pushBase lr list) = ok ++ a :: rest ∧
      (∀ x ∈ ok, s.accessFault .write .word x = none) ∧ s.accessFault .write .word a = some f ∧
      s.push lr list = (State.storeSome (ok.zip (s.pushed lr list)) s).raise f) := by
  unfold State.push
  by_cases h : transferCount lr list = 0
  · exact .inl ⟨h, by simp [h]⟩
  · rcases beforeFault_cases s .write (wordAddrs (transferCount lr list) (s.pushBase lr list)) with
      ⟨h1, h2⟩ | ⟨ok, a, rest, f, h1, h2, h3, h4⟩
    · exact .inr (.inl ⟨h, h2, by simp [h, h1]⟩)
    · exact .inr (.inr ⟨h, ok, a, rest, f, h1, h3, h4, by simp [h, h2]⟩)

/-- What POP can do: the fault of an empty list, with nothing else changed; the loads of the whole block, then the registers,
SP and PC; or the loads before a faulting access, each register written or not, and its fault (R232, R265, R266). -/
theorem pop_cases (s : State) (pc : Bool) (list : BitVec 8) :
    (transferCount pc list = 0 ∧ s.pop pc list = s.raise (.unpredictable s.pc 0xBC00#16)) ∨
    (transferCount pc list ≠ 0 ∧
      (∀ a ∈ wordAddrs (transferCount pc list) (s.reg SP), s.accessFault .read .word a = none) ∧
      ∃ vs s1, State.loadWords (wordAddrs (transferCount pc list) (s.reg SP)) s = (vs, s1) ∧
        s.pop pc list =
          (if pc then ((State.setRegs ((listedRegs list).zip vs) s1).setReg SP
              (s.reg SP + wordsSize (transferCount pc list))).writePC (vs.getLastD 0#32)
            else (State.setRegs ((listedRegs list).zip vs) s1).setReg SP
              (s.reg SP + wordsSize (transferCount pc list)))) ∨
    (transferCount pc list ≠ 0 ∧ ∃ ok a rest f,
      wordAddrs (transferCount pc list) (s.reg SP) = ok ++ a :: rest ∧
      (∀ x ∈ ok, s.accessFault .read .word x = none) ∧ s.accessFault .read .word a = some f ∧
      ∃ vs s1, State.loadWords ok s = (vs, s1) ∧
        s.pop pc list = (State.setSome ((listedRegs list).zip vs) s1).raise f) := by
  unfold State.pop
  by_cases h : transferCount pc list = 0
  · exact .inl ⟨h, by simp [h]⟩
  · rcases beforeFault_cases s .read (wordAddrs (transferCount pc list) (s.reg SP)) with
      ⟨h1, h2⟩ | ⟨ok, a, rest, f, h1, h2, h3, h4⟩
    · exact .inr (.inl ⟨h, h2, _, _, rfl, by simp [h, h1]⟩)
    · exact .inr (.inr ⟨h, ok, a, rest, f, h1, h3, h4, _, _, rfl, by simp [h, h2]⟩)

/-- What a conditional branch can do: a PC write of its target, or nothing (R242). -/
theorem branchIf_cases (s : State) (c : Cond) (imm8 : BitVec 8) :
    (s.conditionPassed c = true ∧ s.branchIf c imm8 = s.writePC (s.branchTarget (sextHalf imm8))) ∨
    (s.conditionPassed c = false ∧ s.branchIf c imm8 = s) := by
  unfold State.branchIf
  cases s.conditionPassed c <;> simp

/-! ## The cycle -/

/-- A fetched halfword: the read passed the check, and at most the count of draws changed. -/
theorem fetchHalf_ok (s t : State) (a : Word) (h : Halfword) (he : s.fetchHalf a = .ok (h, t)) :
    s.accessFault .fetch .half a = none ∧ t = { s with draws := t.draws } := by
  unfold State.fetchHalf at he
  cases hr : s.memRead .fetch .half a with
  | error f => rw [hr] at he; cases he
  | ok p =>
    rw [hr] at he
    obtain ⟨v, s1⟩ := p
    obtain ⟨-, rfl⟩ := Prod.mk.inj (Except.ok.inj he)
    obtain ⟨h1, -, -, h4⟩ := memRead_ok _ _ _ _ _ _ hr
    exact ⟨h1, h4⟩

/-- A fetch changes at most the count of draws. -/
theorem fetchOp_eq (s : State) : s.fetchOp.1 = { s with draws := s.fetchOp.1.draws } := by
  unfold State.fetchOp
  cases h1 : s.fetchHalf s.pc with
  | error f => rfl
  | ok p =>
    obtain ⟨w1, s1⟩ := p
    have e1 := (fetchHalf_ok _ _ _ _ h1).2
    dsimp only
    split
    · cases h2 : s1.fetchHalf (s.pc + 2#32) with
      | error f => exact e1
      | ok q =>
        obtain ⟨w2, s2⟩ := q
        have e2 := (fetchHalf_ok _ _ _ _ h2).2
        dsimp only
        rw [e2, e1]
    · exact e1

/-- The end of the cycle: a fault stands, a PC write stands, or PC advances (R100). -/
theorem retire_cases (s : State) (len : Nat) :
    (s.fault ≠ none ∧ s.retire len = s) ∨
    (s.fault = none ∧ s.wrotePC = true ∧ s.retire len = { s with wrotePC := false }) ∨
    (s.fault = none ∧ s.wrotePC = false ∧ s.retire len = s.setReg PC (s.pc + BitVec.ofNat 32 len)) := by
  unfold State.retire
  cases hf : s.fault with
  | some f => exact .inl ⟨by simp, by simp⟩
  | none => cases hw : s.wrotePC <;> simp

/-- What a step can do: nothing while the machine is not driven; the halt at HALT_ADDR; a fault of the fetch; the fault of
an undefined opcode; or the execute step of the decoded instruction and the end of the cycle. -/
theorem step_cases (s : State) :
    (s.driven = false ∧ step s = .next s) ∨
    (s.driven = true ∧ s.atHaltAddr = true ∧ step s = .next s.halt) ∨
    (s.driven = true ∧ s.atHaltAddr = false ∧
      ((∃ s1 f, s.beginCycle.fetchOp = (s1, .error f) ∧ step s = .next (s1.raise f)) ∨
       (∃ s1 op r, s.beginCycle.fetchOp = (s1, .ok op) ∧ decode op = .error r ∧
          step s = .next (s1.raise (s1.undefinedFault op))) ∨
       (∃ s1 op i, s.beginCycle.fetchOp = (s1, .ok op) ∧ decode op = .ok i ∧
          ∀ s2, exec i s1 = .next s2 → step s = .next (s2.retire op.len)))) := by
  cases hd : s.driven with
  | false => exact .inl ⟨rfl, by simp [step, hd]⟩
  | true =>
    cases hh : s.atHaltAddr with
    | true => exact .inr (.inl ⟨rfl, rfl, by simp [step, hd, hh]⟩)
    | false =>
      refine .inr (.inr ⟨rfl, rfl, ?_⟩)
      have hs : step s = cycle s := by simp [step, hd, hh]
      rw [hs]
      unfold cycle
      cases hf : s.beginCycle.fetchOp with
      | mk s1 res =>
        cases res with
        | error f => exact .inl ⟨s1, f, rfl, rfl⟩
        | ok op =>
          cases hdec : decode op with
          | error r => exact .inr (.inl ⟨s1, op, r, rfl, hdec, by simp [hdec]⟩)
          | ok i => exact .inr (.inr ⟨s1, op, i, rfl, hdec, fun s2 h => by simp [hdec, h]⟩)

end Sys2Proof.Machine
end

