-- ==== Sys2Proof/Tests/Slice0.lean ====
section
/-! SUPPORT. The model's own tests: what WellFormed refuses, a word of each layout written out by hand and decoded, one or two
steps of each instruction with the results that 95_test_vectors.md gives, the host and the assembler's side, and for each
statement with hypotheses a state or operands that meet them. -/

set_option Elab.async false

namespace Sys2Proof.Tests

open Sys2Proof Sys2Proof.Machine

/-! ## Well-formedness: an ill-formed term for each check -/

theorem test_wf_refuses_lsls_by_zero : (Instr.lslsImm 1#3 2#3 0#5).wf = false := by decide
theorem test_wf_takes_lsls_by_one : (Instr.lslsImm 1#3 2#3 1#5).wf = true := by decide
theorem test_wf_takes_lsrs_by_zero : (Instr.lsrsImm 1#3 2#3 0#5).wf = true := by decide
theorem test_encodable_refuses_empty_push : (Instr.push false 0#8).encodable = false := by decide
theorem test_encodable_refuses_empty_pop : (Instr.pop false 0#8).encodable = false := by decide
theorem test_encodable_takes_push_of_lr : (Instr.push true 0#8).encodable = true := by decide
theorem test_encodable_refuses_low_cmp_hi : (Instr.cmpHi 7#4 0#4).encodable = false := by decide
theorem test_encodable_takes_cmp_hi : (Instr.cmpHi 0#4 8#4).encodable = true := by decide

/-! ## Decoding: a word of each layout of R73, written out bit by bit -/

/-- Whether an opcode decodes to an instruction. -/
def decodesTo (op : Opcode) (i : Instr) : Bool :=
  match decode op with
  | .ok j => j == i
  | .error _ => false

/-- Whether an opcode is refused with a name. -/
def refusedAs (op : Opcode) (r : Reject) : Bool :=
  match decode op with
  | .ok _ => false
  | .error q => q == r

theorem test_decode_MOVS_reg : decodesTo (.one 0b0000000000_110_010#16) (.movsReg 0b010#3 0b110#3) = true := by decide +kernel
theorem test_decode_LSLS_imm : decodesTo (.one 0b00000_10110_110_010#16) (.lslsImm 0b010#3 0b110#3 0b10110#5) = true := by decide +kernel
theorem test_decode_LSRS_imm : decodesTo (.one 0b00001_10110_110_010#16) (.lsrsImm 0b010#3 0b110#3 0b10110#5) = true := by decide +kernel
theorem test_decode_ASRS_imm : decodesTo (.one 0b00010_10110_110_010#16) (.asrsImm 0b010#3 0b110#3 0b10110#5) = true := by decide +kernel
theorem test_decode_ADDS_reg : decodesTo (.one 0b0001100_110_011_010#16) (.addsReg 0b010#3 0b011#3 0b110#3) = true := by decide +kernel
theorem test_decode_SUBS_reg : decodesTo (.one 0b0001101_110_011_010#16) (.subsReg 0b010#3 0b011#3 0b110#3) = true := by decide +kernel
theorem test_decode_ADDS_imm3 : decodesTo (.one 0b0001110_101_011_010#16) (.addsImm3 0b010#3 0b011#3 0b101#3) = true := by decide +kernel
theorem test_decode_SUBS_imm3 : decodesTo (.one 0b0001111_101_011_010#16) (.subsImm3 0b010#3 0b011#3 0b101#3) = true := by decide +kernel
theorem test_decode_MOVS_imm8 : decodesTo (.one 0b00100_010_10110010#16) (.movsImm8 0b010#3 0b10110010#8) = true := by decide +kernel
theorem test_decode_CMP_imm8 : decodesTo (.one 0b00101_011_10110010#16) (.cmpImm8 0b011#3 0b10110010#8) = true := by decide +kernel
theorem test_decode_ADDS_imm8 : decodesTo (.one 0b00110_010_10110010#16) (.addsImm8 0b010#3 0b10110010#8) = true := by decide +kernel
theorem test_decode_SUBS_imm8 : decodesTo (.one 0b00111_010_10110010#16) (.subsImm8 0b010#3 0b10110010#8) = true := by decide +kernel
theorem test_decode_ANDS : decodesTo (.one 0b0100000000_110_010#16) (.ands 0b010#3 0b110#3) = true := by decide +kernel
theorem test_decode_EORS : decodesTo (.one 0b0100000001_110_010#16) (.eors 0b010#3 0b110#3) = true := by decide +kernel
theorem test_decode_LSLS_reg : decodesTo (.one 0b0100000010_110_010#16) (.lslsReg 0b010#3 0b110#3) = true := by decide +kernel
theorem test_decode_LSRS_reg : decodesTo (.one 0b0100000011_110_010#16) (.lsrsReg 0b010#3 0b110#3) = true := by decide +kernel
theorem test_decode_ASRS_reg : decodesTo (.one 0b0100000100_110_010#16) (.asrsReg 0b010#3 0b110#3) = true := by decide +kernel
theorem test_decode_ADCS : decodesTo (.one 0b0100000101_110_010#16) (.adcs 0b010#3 0b110#3) = true := by decide +kernel
theorem test_decode_SBCS : decodesTo (.one 0b0100000110_110_010#16) (.sbcs 0b010#3 0b110#3) = true := by decide +kernel
theorem test_decode_RORS : decodesTo (.one 0b0100000111_110_010#16) (.rors 0b010#3 0b110#3) = true := by decide +kernel
theorem test_decode_TST : decodesTo (.one 0b0100001000_110_011#16) (.tst 0b011#3 0b110#3) = true := by decide +kernel
theorem test_decode_RSBS : decodesTo (.one 0b0100001001_011_010#16) (.rsbs 0b010#3 0b011#3) = true := by decide +kernel
theorem test_decode_CMP_reg : decodesTo (.one 0b0100001010_110_011#16) (.cmpReg 0b011#3 0b110#3) = true := by decide +kernel
theorem test_decode_CMN : decodesTo (.one 0b0100001011_110_011#16) (.cmn 0b011#3 0b110#3) = true := by decide +kernel
theorem test_decode_ORRS : decodesTo (.one 0b0100001100_110_010#16) (.orrs 0b010#3 0b110#3) = true := by decide +kernel
theorem test_decode_MULS : decodesTo (.one 0b0100001101_011_010#16) (.muls 0b010#3 0b011#3) = true := by decide +kernel
theorem test_decode_BICS : decodesTo (.one 0b0100001110_110_010#16) (.bics 0b010#3 0b110#3) = true := by decide +kernel
theorem test_decode_MVNS : decodesTo (.one 0b0100001111_110_010#16) (.mvns 0b010#3 0b110#3) = true := by decide +kernel
theorem test_decode_ADD_hi : decodesTo (.one 0b01000100_1_1001_010#16) (.addHi 0b1010#4 0b1001#4) = true := by decide +kernel
theorem test_decode_CMP_hi : decodesTo (.one 0b01000101_1_1001_011#16) (.cmpHi 0b1011#4 0b1001#4) = true := by decide +kernel
theorem test_decode_MOV_hi : decodesTo (.one 0b01000110_1_1001_010#16) (.movHi 0b1010#4 0b1001#4) = true := by decide +kernel
theorem test_decode_BX : decodesTo (.one 0b010001110_1001_000#16) (.bx 0b1001#4) = true := by decide +kernel
theorem test_decode_BLX : decodesTo (.one 0b010001111_1001_000#16) (.blx 0b1001#4) = true := by decide +kernel
theorem test_decode_LDR_lit : decodesTo (.one 0b01001_001_10110010#16) (.ldrLit 0b001#3 0b10110010#8) = true := by decide +kernel
theorem test_decode_STR_reg : decodesTo (.one 0b0101000_110_011_001#16) (.strReg 0b001#3 0b011#3 0b110#3) = true := by decide +kernel
theorem test_decode_STRH_reg : decodesTo (.one 0b0101001_110_011_001#16) (.strhReg 0b001#3 0b011#3 0b110#3) = true := by decide +kernel
theorem test_decode_STRB_reg : decodesTo (.one 0b0101010_110_011_001#16) (.strbReg 0b001#3 0b011#3 0b110#3) = true := by decide +kernel
theorem test_decode_LDRSB_reg : decodesTo (.one 0b0101011_110_011_001#16) (.ldrsbReg 0b001#3 0b011#3 0b110#3) = true := by decide +kernel
theorem test_decode_LDR_reg : decodesTo (.one 0b0101100_110_011_001#16) (.ldrReg 0b001#3 0b011#3 0b110#3) = true := by decide +kernel
theorem test_decode_LDRH_reg : decodesTo (.one 0b0101101_110_011_001#16) (.ldrhReg 0b001#3 0b011#3 0b110#3) = true := by decide +kernel
theorem test_decode_LDRB_reg : decodesTo (.one 0b0101110_110_011_001#16) (.ldrbReg 0b001#3 0b011#3 0b110#3) = true := by decide +kernel
theorem test_decode_LDRSH_reg : decodesTo (.one 0b0101111_110_011_001#16) (.ldrshReg 0b001#3 0b011#3 0b110#3) = true := by decide +kernel
theorem test_decode_STR_imm : decodesTo (.one 0b01100_10110_011_001#16) (.strImm 0b001#3 0b011#3 0b10110#5) = true := by decide +kernel
theorem test_decode_LDR_imm : decodesTo (.one 0b01101_10110_011_001#16) (.ldrImm 0b001#3 0b011#3 0b10110#5) = true := by decide +kernel
theorem test_decode_STRB_imm : decodesTo (.one 0b01110_10110_011_001#16) (.strbImm 0b001#3 0b011#3 0b10110#5) = true := by decide +kernel
theorem test_decode_LDRB_imm : decodesTo (.one 0b01111_10110_011_001#16) (.ldrbImm 0b001#3 0b011#3 0b10110#5) = true := by decide +kernel
theorem test_decode_STRH_imm : decodesTo (.one 0b10000_10110_011_001#16) (.strhImm 0b001#3 0b011#3 0b10110#5) = true := by decide +kernel
theorem test_decode_LDRH_imm : decodesTo (.one 0b10001_10110_011_001#16) (.ldrhImm 0b001#3 0b011#3 0b10110#5) = true := by decide +kernel
theorem test_decode_STR_sp : decodesTo (.one 0b10010_001_10110010#16) (.strSp 0b001#3 0b10110010#8) = true := by decide +kernel
theorem test_decode_LDR_sp : decodesTo (.one 0b10011_001_10110010#16) (.ldrSp 0b001#3 0b10110010#8) = true := by decide +kernel
theorem test_decode_ADR : decodesTo (.one 0b10100_010_10110010#16) (.adr 0b010#3 0b10110010#8) = true := by decide +kernel
theorem test_decode_ADD_Rd_SP : decodesTo (.one 0b10101_010_10110010#16) (.addRdSp 0b010#3 0b10110010#8) = true := by decide +kernel
theorem test_decode_ADD_SP_imm : decodesTo (.one 0b101100000_1011001#16) (.addSpImm 0b1011001#7) = true := by decide +kernel
theorem test_decode_SUB_SP_imm : decodesTo (.one 0b101100001_1011001#16) (.subSpImm 0b1011001#7) = true := by decide +kernel
theorem test_decode_PUSH : decodesTo (.one 0b1011010_1_10010110#16) (.push true 0b10010110#8) = true := by decide +kernel
theorem test_decode_POP : decodesTo (.one 0b1011110_1_10010110#16) (.pop true 0b10010110#8) = true := by decide +kernel
theorem test_decode_BEQ : decodesTo (.one 0b11010000_10110010#16) (.beq 0b10110010#8) = true := by decide +kernel
theorem test_decode_BNE : decodesTo (.one 0b11010001_10110010#16) (.bne 0b10110010#8) = true := by decide +kernel
theorem test_decode_BCS : decodesTo (.one 0b11010010_10110010#16) (.bcs 0b10110010#8) = true := by decide +kernel
theorem test_decode_BCC : decodesTo (.one 0b11010011_10110010#16) (.bcc 0b10110010#8) = true := by decide +kernel
theorem test_decode_BMI : decodesTo (.one 0b11010100_10110010#16) (.bmi 0b10110010#8) = true := by decide +kernel
theorem test_decode_BPL : decodesTo (.one 0b11010101_10110010#16) (.bpl 0b10110010#8) = true := by decide +kernel
theorem test_decode_BVS : decodesTo (.one 0b11010110_10110010#16) (.bvs 0b10110010#8) = true := by decide +kernel
theorem test_decode_BVC : decodesTo (.one 0b11010111_10110010#16) (.bvc 0b10110010#8) = true := by decide +kernel
theorem test_decode_BHI : decodesTo (.one 0b11011000_10110010#16) (.bhi 0b10110010#8) = true := by decide +kernel
theorem test_decode_BLS : decodesTo (.one 0b11011001_10110010#16) (.bls 0b10110010#8) = true := by decide +kernel
theorem test_decode_BGE : decodesTo (.one 0b11011010_10110010#16) (.bge 0b10110010#8) = true := by decide +kernel
theorem test_decode_BLT : decodesTo (.one 0b11011011_10110010#16) (.blt 0b10110010#8) = true := by decide +kernel
theorem test_decode_BGT : decodesTo (.one 0b11011100_10110010#16) (.bgt 0b10110010#8) = true := by decide +kernel
theorem test_decode_BLE : decodesTo (.one 0b11011101_10110010#16) (.ble 0b10110010#8) = true := by decide +kernel
theorem test_decode_BAL : decodesTo (.one 0b11011110_10110010#16) (.bal 0b10110010#8) = true := by decide +kernel
theorem test_decode_B : decodesTo (.one 0b11100_10110010110#16) (.b 0b10110010110#11) = true := by decide +kernel
theorem test_decode_BL : decodesTo (.two 0b11110_1_1011001011#16 0b11111_01101000111#16) (.bl 0b1#1 0b1011001011#10 0b01101000111#11) = true := by decide +kernel

theorem test_decode_lsls_by_zero_is_movs : decodesTo (.one 0b00000_00000_010_001#16) (.movsReg 1#3 2#3) = true := by decide +kernel
theorem test_refuse_bx_low_bits : refusedAs (.one 0x4701#16) (.branchExchangeLowBits 0x4701#16) = true := by decide +kernel
theorem test_refuse_bkpt : refusedAs (.one 0xBE00#16) (.miscellaneousSpace 0xBE00#16) = true := by decide +kernel
theorem test_refuse_stm : refusedAs (.one 0xC000#16) (.multipleTransferSpace 0xC000#16) = true := by decide +kernel
theorem test_refuse_svc : refusedAs (.one 0xDF00#16) (.conditionSpace 0xDF00#16) = true := by decide +kernel
theorem test_refuse_lone_second_half : refusedAs (.one 0xF800#16) (.wideSpace 0xF800#16) = true := by decide +kernel
theorem test_refuse_dsb : refusedAs (.two 0xF3BF#16 0x8F4F#16) (.pairSecondHalfword 0xF3BF#16 0x8F4F#16) = true := by decide +kernel
theorem test_table_word_of_adds : decodeTableWord 16 0x1888 = some (.addsReg 0#3 1#3 2#3) := by decide +kernel
theorem test_table_word_of_bl : decodeTableWord 32 0xF000F87A = some (.bl 0#1 0#10 0x7A#11) := by decide +kernel
theorem test_table_word_of_bl_first_low : decodeTableWord 32 0xF87AF000 = some (.bl 0#1 0#10 0x7A#11) := by decide +kernel

/-! ## Steps: the vectors of 95_test_vectors.md sections 2.1 to 2.9 -/

/-- A running machine with halfwords at PC, registers, and NZCV. -/
def boot (pc : Word) (hs : List Halfword) (regs : List (RegNum × Word)) (nzcv : Nat) : State :=
  (State.setRegs regs (State.pokeBytes (hs.flatMap halfwordBytes) pc
    ({ State.reset with run := .running }.setReg PC pc))).setNZCV (nzcv.testBit 3) (nzcv.testBit 2) (nzcv.testBit 1)
    (nzcv.testBit 0)

/-- Placing a word in memory. -/
def putWord (s : State) (a v : Word) : State := State.pokeBytes (splitLE 4 v) a s

/-- The word that memory holds at an address, if it holds its four bytes. -/
def wordAt (s : State) (a : Word) : Option Word :=
  match s.peek a, s.peek (a + 1#32), s.peek (a + 2#32), s.peek (a + 3#32) with
  | some b0, some b1, some b2, some b3 => some (b3 ++ b2 ++ b1 ++ b0)
  | _, _, _, _ => none

/-- The code of the fault recorded, or 0. -/
def faultCode (s : State) : Nat :=
  match s.fault with
  | some f => f.code
  | none => 0

/-- What holds of the state after one step. -/
def afterStep (s : State) (p : State → Bool) : Bool :=
  match step s with
  | .next t => p t
  | _ => false

theorem test_step_MOVS_reg_1 : afterStep (boot 0x8000008#32 [0x0011#16] [(2#4, 0x0#32)] 3)
    (fun t => decide (t.reg 1#4 = 0x0#32 ∧ t.reg 15#4 = 0x800000a#32 ∧ t.apsr = 0x70000000#32 ∧ faultCode t = 0)) = true := by decide +kernel
theorem test_step_MOVS_reg_2 : afterStep (boot 0x8000008#32 [0x0008#16] [(1#4, 0x80000000#32)] 2)
    (fun t => decide (t.reg 0#4 = 0x80000000#32 ∧ t.reg 15#4 = 0x800000a#32 ∧ t.apsr = 0xa0000000#32 ∧ faultCode t = 0)) = true := by decide +kernel
theorem test_step_LSLS_imm_1 : afterStep (boot 0x8000008#32 [0x0048#16] [(1#4, 0x80000001#32)] 0)
    (fun t => decide (t.reg 0#4 = 0x2#32 ∧ t.reg 15#4 = 0x800000a#32 ∧ t.apsr = 0x20000000#32 ∧ faultCode t = 0)) = true := by decide +kernel
theorem test_step_LSLS_imm_2 : afterStep (boot 0x8000008#32 [0x07c8#16] [(1#4, 0x3#32)] 0)
    (fun t => decide (t.reg 0#4 = 0x80000000#32 ∧ t.reg 15#4 = 0x800000a#32 ∧ t.apsr = 0xa0000000#32 ∧ faultCode t = 0)) = true := by decide +kernel
theorem test_step_LSRS_imm_1 : afterStep (boot 0x8000008#32 [0x0848#16] [(1#4, 0x1#32)] 0)
    (fun t => decide (t.reg 0#4 = 0x0#32 ∧ t.reg 15#4 = 0x800000a#32 ∧ t.apsr = 0x60000000#32 ∧ faultCode t = 0)) = true := by decide +kernel
theorem test_step_LSRS_imm_2 : afterStep (boot 0x8000008#32 [0x0808#16] [(1#4, 0x7fffffff#32)] 0)
    (fun t => decide (t.reg 0#4 = 0x0#32 ∧ t.reg 15#4 = 0x800000a#32 ∧ t.apsr = 0x40000000#32 ∧ faultCode t = 0)) = true := by decide +kernel
theorem test_step_ASRS_imm_1 : afterStep (boot 0x8000008#32 [0x1008#16] [(1#4, 0x80000000#32)] 0)
    (fun t => decide (t.reg 0#4 = 0xffffffff#32 ∧ t.reg 15#4 = 0x800000a#32 ∧ t.apsr = 0xa0000000#32 ∧ faultCode t = 0)) = true := by decide +kernel
theorem test_step_ASRS_imm_2 : afterStep (boot 0x8000008#32 [0x17c8#16] [(1#4, 0x40000000#32)] 0)
    (fun t => decide (t.reg 0#4 = 0x0#32 ∧ t.reg 15#4 = 0x800000a#32 ∧ t.apsr = 0x60000000#32 ∧ faultCode t = 0)) = true := by decide +kernel
theorem test_step_ADDS_reg_1 : afterStep (boot 0x8000008#32 [0x1888#16] [(1#4, 0xffffffff#32), (2#4, 0x1#32)] 0)
    (fun t => decide (t.reg 0#4 = 0x0#32 ∧ t.reg 15#4 = 0x800000a#32 ∧ t.apsr = 0x60000000#32 ∧ faultCode t = 0)) = true := by decide +kernel
theorem test_step_ADDS_reg_2 : afterStep (boot 0x8000008#32 [0x1888#16] [(1#4, 0x80000000#32), (2#4, 0x80000000#32)] 0)
    (fun t => decide (t.reg 0#4 = 0x0#32 ∧ t.reg 15#4 = 0x800000a#32 ∧ t.apsr = 0x70000000#32 ∧ faultCode t = 0)) = true := by decide +kernel
theorem test_step_SUBS_reg_1 : afterStep (boot 0x8000008#32 [0x1a88#16] [(1#4, 0x0#32), (2#4, 0x1#32)] 0)
    (fun t => decide (t.reg 0#4 = 0xffffffff#32 ∧ t.reg 15#4 = 0x800000a#32 ∧ t.apsr = 0x80000000#32 ∧ faultCode t = 0)) = true := by decide +kernel
theorem test_step_SUBS_reg_2 : afterStep (boot 0x8000008#32 [0x1a88#16] [(1#4, 0x0#32), (2#4, 0x80000000#32)] 0)
    (fun t => decide (t.reg 0#4 = 0x80000000#32 ∧ t.reg 15#4 = 0x800000a#32 ∧ t.apsr = 0x90000000#32 ∧ faultCode t = 0)) = true := by decide +kernel
theorem test_step_ADDS_imm3_1 : afterStep (boot 0x8000008#32 [0x1dd1#16] [(2#4, 0xfffffff9#32)] 0)
    (fun t => decide (t.reg 1#4 = 0x0#32 ∧ t.reg 15#4 = 0x800000a#32 ∧ t.apsr = 0x60000000#32 ∧ faultCode t = 0)) = true := by decide +kernel
theorem test_step_SUBS_imm3_1 : afterStep (boot 0x8000008#32 [0x1e11#16] [(2#4, 0x0#32)] 0)
    (fun t => decide (t.reg 1#4 = 0x0#32 ∧ t.reg 15#4 = 0x800000a#32 ∧ t.apsr = 0x60000000#32 ∧ faultCode t = 0)) = true := by decide +kernel
theorem test_step_MOVS_imm8_1 : afterStep (boot 0x8000008#32 [0x2000#16] [(0#4, 0x5#32)] 11)
    (fun t => decide (t.reg 0#4 = 0x0#32 ∧ t.reg 15#4 = 0x800000a#32 ∧ t.apsr = 0x70000000#32 ∧ faultCode t = 0)) = true := by decide +kernel
theorem test_step_CMP_imm8_1 : afterStep (boot 0x8000008#32 [0x2800#16] [(0#4, 0x0#32)] 0)
    (fun t => decide (t.reg 15#4 = 0x800000a#32 ∧ t.apsr = 0x60000000#32 ∧ faultCode t = 0)) = true := by decide +kernel
theorem test_step_CMP_imm8_2 : afterStep (boot 0x8000008#32 [0x2801#16] [(0#4, 0x80000000#32)] 0)
    (fun t => decide (t.reg 15#4 = 0x800000a#32 ∧ t.apsr = 0x30000000#32 ∧ faultCode t = 0)) = true := by decide +kernel
theorem test_step_ADDS_imm8_1 : afterStep (boot 0x8000008#32 [0x33ff#16] [(3#4, 0xffffff01#32)] 0)
    (fun t => decide (t.reg 3#4 = 0x0#32 ∧ t.reg 15#4 = 0x800000a#32 ∧ t.apsr = 0x60000000#32 ∧ faultCode t = 0)) = true := by decide +kernel
theorem test_step_SUBS_imm8_1 : afterStep (boot 0x8000008#32 [0x3bff#16] [(3#4, 0xff#32)] 0)
    (fun t => decide (t.reg 3#4 = 0x0#32 ∧ t.reg 15#4 = 0x800000a#32 ∧ t.apsr = 0x60000000#32 ∧ faultCode t = 0)) = true := by decide +kernel
theorem test_step_ANDS_1 : afterStep (boot 0x8000008#32 [0x4008#16] [(0#4, 0xf0#32), (1#4, 0xf#32)] 3)
    (fun t => decide (t.reg 0#4 = 0x0#32 ∧ t.reg 15#4 = 0x800000a#32 ∧ t.apsr = 0x70000000#32 ∧ faultCode t = 0)) = true := by decide +kernel
theorem test_step_ANDS_2 : afterStep (boot 0x8000008#32 [0x4008#16] [(0#4, 0x80000000#32), (1#4, 0xffffffff#32)] 0)
    (fun t => decide (t.reg 0#4 = 0x80000000#32 ∧ t.reg 15#4 = 0x800000a#32 ∧ t.apsr = 0x80000000#32 ∧ faultCode t = 0)) = true := by decide +kernel
theorem test_step_EORS_1 : afterStep (boot 0x8000008#32 [0x4048#16] [(0#4, 0xaaaaaaaa#32), (1#4, 0xffffffff#32)] 0)
    (fun t => decide (t.reg 0#4 = 0x55555555#32 ∧ t.reg 15#4 = 0x800000a#32 ∧ t.apsr = 0x0#32 ∧ faultCode t = 0)) = true := by decide +kernel
theorem test_step_LSLS_reg_1 : afterStep (boot 0x8000008#32 [0x4088#16] [(0#4, 0x80000000#32), (1#4, 0x0#32)] 2)
    (fun t => decide (t.reg 0#4 = 0x80000000#32 ∧ t.reg 15#4 = 0x800000a#32 ∧ t.apsr = 0xa0000000#32 ∧ faultCode t = 0)) = true := by decide +kernel
theorem test_step_LSLS_reg_2 : afterStep (boot 0x8000008#32 [0x4088#16] [(0#4, 0xffffffff#32), (1#4, 0x21#32)] 0)
    (fun t => decide (t.reg 0#4 = 0x0#32 ∧ t.reg 15#4 = 0x800000a#32 ∧ t.apsr = 0x40000000#32 ∧ faultCode t = 0)) = true := by decide +kernel
theorem test_step_LSRS_reg_1 : afterStep (boot 0x8000008#32 [0x40c8#16] [(0#4, 0x80000000#32), (1#4, 0x20#32)] 0)
    (fun t => decide (t.reg 0#4 = 0x0#32 ∧ t.reg 15#4 = 0x800000a#32 ∧ t.apsr = 0x60000000#32 ∧ faultCode t = 0)) = true := by decide +kernel
theorem test_step_LSRS_reg_2 : afterStep (boot 0x8000008#32 [0x40c8#16] [(0#4, 0xffffffff#32), (1#4, 0xff#32)] 2)
    (fun t => decide (t.reg 0#4 = 0x0#32 ∧ t.reg 15#4 = 0x800000a#32 ∧ t.apsr = 0x40000000#32 ∧ faultCode t = 0)) = true := by decide +kernel
theorem test_step_ASRS_reg_1 : afterStep (boot 0x8000008#32 [0x4108#16] [(0#4, 0x7fffffff#32), (1#4, 0xc8#32)] 0)
    (fun t => decide (t.reg 0#4 = 0x0#32 ∧ t.reg 15#4 = 0x800000a#32 ∧ t.apsr = 0x40000000#32 ∧ faultCode t = 0)) = true := by decide +kernel
theorem test_step_ASRS_reg_2 : afterStep (boot 0x8000008#32 [0x4108#16] [(0#4, 0x80000000#32), (1#4, 0x1#32)] 0)
    (fun t => decide (t.reg 0#4 = 0xc0000000#32 ∧ t.reg 15#4 = 0x800000a#32 ∧ t.apsr = 0x80000000#32 ∧ faultCode t = 0)) = true := by decide +kernel
theorem test_step_ADCS_1 : afterStep (boot 0x8000008#32 [0x4148#16] [(0#4, 0x7fffffff#32), (1#4, 0x0#32)] 2)
    (fun t => decide (t.reg 0#4 = 0x80000000#32 ∧ t.reg 15#4 = 0x800000a#32 ∧ t.apsr = 0x90000000#32 ∧ faultCode t = 0)) = true := by decide +kernel
theorem test_step_ADCS_2 : afterStep (boot 0x8000008#32 [0x4148#16] [(0#4, 0xffffffff#32), (1#4, 0xffffffff#32)] 2)
    (fun t => decide (t.reg 0#4 = 0xffffffff#32 ∧ t.reg 15#4 = 0x800000a#32 ∧ t.apsr = 0xa0000000#32 ∧ faultCode t = 0)) = true := by decide +kernel
theorem test_step_SBCS_1 : afterStep (boot 0x8000008#32 [0x4188#16] [(0#4, 0x0#32), (1#4, 0x0#32)] 0)
    (fun t => decide (t.reg 0#4 = 0xffffffff#32 ∧ t.reg 15#4 = 0x800000a#32 ∧ t.apsr = 0x80000000#32 ∧ faultCode t = 0)) = true := by decide +kernel
theorem test_step_SBCS_2 : afterStep (boot 0x8000008#32 [0x4188#16] [(0#4, 0x0#32), (1#4, 0x0#32)] 2)
    (fun t => decide (t.reg 0#4 = 0x0#32 ∧ t.reg 15#4 = 0x800000a#32 ∧ t.apsr = 0x60000000#32 ∧ faultCode t = 0)) = true := by decide +kernel
theorem test_step_RORS_1 : afterStep (boot 0x8000008#32 [0x41c8#16] [(0#4, 0x12345678#32), (1#4, 0x4#32)] 0)
    (fun t => decide (t.reg 0#4 = 0x81234567#32 ∧ t.reg 15#4 = 0x800000a#32 ∧ t.apsr = 0xa0000000#32 ∧ faultCode t = 0)) = true := by decide +kernel
theorem test_step_RORS_2 : afterStep (boot 0x8000008#32 [0x41c8#16] [(0#4, 0x12345678#32), (1#4, 0x24#32)] 0)
    (fun t => decide (t.reg 0#4 = 0x81234567#32 ∧ t.reg 15#4 = 0x800000a#32 ∧ t.apsr = 0xa0000000#32 ∧ faultCode t = 0)) = true := by decide +kernel
theorem test_step_TST_1 : afterStep (boot 0x8000008#32 [0x4211#16] [(1#4, 0x80000000#32), (2#4, 0x80000001#32)] 3)
    (fun t => decide (t.reg 15#4 = 0x800000a#32 ∧ t.apsr = 0xb0000000#32 ∧ faultCode t = 0)) = true := by decide +kernel
theorem test_step_RSBS_1 : afterStep (boot 0x8000008#32 [0x4248#16] [(1#4, 0x0#32)] 0)
    (fun t => decide (t.reg 0#4 = 0x0#32 ∧ t.reg 15#4 = 0x800000a#32 ∧ t.apsr = 0x60000000#32 ∧ faultCode t = 0)) = true := by decide +kernel
theorem test_step_RSBS_2 : afterStep (boot 0x8000008#32 [0x4248#16] [(1#4, 0x80000000#32)] 0)
    (fun t => decide (t.reg 0#4 = 0x80000000#32 ∧ t.reg 15#4 = 0x800000a#32 ∧ t.apsr = 0x90000000#32 ∧ faultCode t = 0)) = true := by decide +kernel
theorem test_step_CMP_reg_1 : afterStep (boot 0x8000008#32 [0x4291#16] [(1#4, 0x1#32), (2#4, 0x2#32)] 0)
    (fun t => decide (t.reg 15#4 = 0x800000a#32 ∧ t.apsr = 0x80000000#32 ∧ faultCode t = 0)) = true := by decide +kernel
theorem test_step_CMP_reg_2 : afterStep (boot 0x8000008#32 [0x4291#16] [(1#4, 0x7fffffff#32), (2#4, 0xffffffff#32)] 0)
    (fun t => decide (t.reg 15#4 = 0x800000a#32 ∧ t.apsr = 0x90000000#32 ∧ faultCode t = 0)) = true := by decide +kernel
theorem test_step_CMN_1 : afterStep (boot 0x8000008#32 [0x42d1#16] [(1#4, 0x7fffffff#32), (2#4, 0x1#32)] 0)
    (fun t => decide (t.reg 15#4 = 0x800000a#32 ∧ t.apsr = 0x90000000#32 ∧ faultCode t = 0)) = true := by decide +kernel
theorem test_step_ORRS_1 : afterStep (boot 0x8000008#32 [0x4308#16] [(0#4, 0x0#32), (1#4, 0x0#32)] 0)
    (fun t => decide (t.reg 0#4 = 0x0#32 ∧ t.reg 15#4 = 0x800000a#32 ∧ t.apsr = 0x40000000#32 ∧ faultCode t = 0)) = true := by decide +kernel
theorem test_step_MULS_1 : afterStep (boot 0x8000008#32 [0x4348#16] [(0#4, 0x10000#32), (1#4, 0x10000#32)] 2)
    (fun t => decide (t.reg 0#4 = 0x0#32 ∧ t.reg 15#4 = 0x800000a#32 ∧ t.apsr = 0x60000000#32 ∧ faultCode t = 0)) = true := by decide +kernel
theorem test_step_MULS_2 : afterStep (boot 0x8000008#32 [0x4348#16] [(0#4, 0x3#32), (1#4, 0xffffffff#32)] 0)
    (fun t => decide (t.reg 0#4 = 0xfffffffd#32 ∧ t.reg 15#4 = 0x800000a#32 ∧ t.apsr = 0x80000000#32 ∧ faultCode t = 0)) = true := by decide +kernel
theorem test_step_BICS_1 : afterStep (boot 0x8000008#32 [0x4388#16] [(0#4, 0xffffffff#32), (1#4, 0x7fffffff#32)] 0)
    (fun t => decide (t.reg 0#4 = 0x80000000#32 ∧ t.reg 15#4 = 0x800000a#32 ∧ t.apsr = 0x80000000#32 ∧ faultCode t = 0)) = true := by decide +kernel
theorem test_step_MVNS_1 : afterStep (boot 0x8000008#32 [0x43c8#16] [(1#4, 0xffffffff#32)] 0)
    (fun t => decide (t.reg 0#4 = 0x0#32 ∧ t.reg 15#4 = 0x800000a#32 ∧ t.apsr = 0x40000000#32 ∧ faultCode t = 0)) = true := by decide +kernel
theorem test_step_ADD_hi_1 : afterStep (boot 0x8000008#32 [0x4487#16] [(0#4, 0x4#32)] 0)
    (fun t => decide (t.reg 15#4 = 0x8000010#32 ∧ t.apsr = 0x0#32 ∧ faultCode t = 0)) = true := by decide +kernel
theorem test_step_ADD_hi_2 : afterStep (boot 0x8000008#32 [0x4485#16] [(0#4, 0xfffffff8#32), (13#4, 0x20002000#32)] 0)
    (fun t => decide (t.reg 13#4 = 0x20001ff8#32 ∧ t.reg 15#4 = 0x800000a#32 ∧ t.apsr = 0x0#32 ∧ faultCode t = 0)) = true := by decide +kernel
theorem test_step_CMP_hi_1 : afterStep (boot 0x8000008#32 [0x4580#16] [(0#4, 0x5#32), (8#4, 0x5#32)] 0)
    (fun t => decide (t.reg 15#4 = 0x800000a#32 ∧ t.apsr = 0x60000000#32 ∧ faultCode t = 0)) = true := by decide +kernel
theorem test_step_CMP_hi_2 : afterStep (boot 0x8000008#32 [0x4508#16] [(0#4, 0x1#32), (1#4, 0x2#32)] 0)
    (fun t => decide (t.reg 15#4 = 0x800000a#32 ∧ t.apsr = 0x80000000#32 ∧ faultCode t = 0)) = true := by decide +kernel
theorem test_step_MOV_hi_1 : afterStep (boot 0x8000008#32 [0x4685#16] [(0#4, 0x20001001#32)] 0)
    (fun t => decide (t.reg 13#4 = 0x20001001#32 ∧ t.reg 15#4 = 0x800000a#32 ∧ t.apsr = 0x0#32 ∧ faultCode t = 0)) = true := by decide +kernel
theorem test_step_MOV_hi_2 : afterStep (boot 0x8000008#32 [0x4687#16] [(0#4, 0x8000101#32)] 0)
    (fun t => decide (t.reg 15#4 = 0x8000100#32 ∧ t.apsr = 0x0#32 ∧ faultCode t = 0)) = true := by decide +kernel
theorem test_step_BX_1 : afterStep (boot 0x8000008#32 [0x4770#16] [(14#4, 0x8000101#32)] 0)
    (fun t => decide (t.reg 15#4 = 0x8000100#32 ∧ t.apsr = 0x0#32 ∧ faultCode t = 0)) = true := by decide +kernel
theorem test_step_BX_2 : afterStep (boot 0x8000008#32 [0x4778#16] [] 0)
    (fun t => decide (t.reg 15#4 = 0x800000c#32 ∧ t.apsr = 0x0#32 ∧ faultCode t = 0)) = true := by decide +kernel
theorem test_step_BLX_1 : afterStep (boot 0x8000020#32 [0x4788#16] [(1#4, 0x8000101#32)] 0)
    (fun t => decide (t.reg 14#4 = 0x8000023#32 ∧ t.reg 15#4 = 0x8000100#32 ∧ t.apsr = 0x0#32 ∧ faultCode t = 0)) = true := by decide +kernel
theorem test_step_LDR_lit_1 : afterStep (putWord (boot 0x800000a#32 [0x4800#16] [] 0) 0x800000c#32 0x1020304#32)
    (fun t => decide (t.reg 0#4 = 0x1020304#32 ∧ t.reg 15#4 = 0x800000c#32 ∧ t.apsr = 0x0#32 ∧ faultCode t = 0)) = true := by decide +kernel
theorem test_step_LDR_lit_2 : afterStep (putWord (boot 0x800000c#32 [0x4880#16] [] 0) 0x8000210#32 0x5#32)
    (fun t => decide (t.reg 0#4 = 0x5#32 ∧ t.reg 15#4 = 0x800000e#32 ∧ t.apsr = 0x0#32 ∧ faultCode t = 0)) = true := by decide +kernel
theorem test_step_STRH_reg_1 : afterStep (boot 0x8000008#32 [0x52d1#16] [(1#4, 0x1#32), (2#4, 0x20000000#32), (3#4, 0x3#32)] 0)
    (fun t => decide (t.reg 15#4 = 0x8000008#32 ∧ t.apsr = 0x0#32 ∧ faultCode t = 2)) = true := by decide +kernel
theorem test_step_STRB_reg_1 : afterStep (putWord (boot 0x8000008#32 [0x54d1#16] [(1#4, 0x1ff#32), (2#4, 0x20000000#32), (3#4, 0x0#32)] 0) 0x20000000#32 0x11223344#32)
    (fun t => decide (t.reg 15#4 = 0x800000a#32 ∧ t.apsr = 0x0#32 ∧ faultCode t = 0 ∧ wordAt t 0x20000000#32 = some 0x112233ff#32)) = true := by decide +kernel
theorem test_step_LDRSB_reg_1 : afterStep (putWord (boot 0x8000008#32 [0x56d1#16] [(2#4, 0x20000000#32), (3#4, 0x1#32)] 0) 0x20000000#32 0x7f00#32)
    (fun t => decide (t.reg 1#4 = 0x7f#32 ∧ t.reg 15#4 = 0x800000a#32 ∧ t.apsr = 0x0#32 ∧ faultCode t = 0)) = true := by decide +kernel
theorem test_step_LDR_reg_1 : afterStep (putWord (boot 0x8000008#32 [0x58d1#16] [(2#4, 0x20000008#32), (3#4, 0xfffffffc#32)] 0) 0x20000004#32 0x7#32)
    (fun t => decide (t.reg 1#4 = 0x7#32 ∧ t.reg 15#4 = 0x800000a#32 ∧ t.apsr = 0x0#32 ∧ faultCode t = 0)) = true := by decide +kernel
theorem test_step_LDRB_reg_1 : afterStep (putWord (boot 0x8000008#32 [0x5cd1#16] [(2#4, 0x20000000#32), (3#4, 0x2#32)] 0) 0x20000000#32 0x800000#32)
    (fun t => decide (t.reg 1#4 = 0x80#32 ∧ t.reg 15#4 = 0x800000a#32 ∧ t.apsr = 0x0#32 ∧ faultCode t = 0)) = true := by decide +kernel
theorem test_step_LDRSH_reg_1 : afterStep (boot 0x8000008#32 [0x5ed1#16] [(2#4, 0x20000000#32), (3#4, 0x1#32)] 0)
    (fun t => decide (t.reg 15#4 = 0x8000008#32 ∧ t.apsr = 0x0#32 ∧ faultCode t = 2)) = true := by decide +kernel
theorem test_step_LDRSH_reg_2 : afterStep (putWord (boot 0x8000008#32 [0x5ed1#16] [(2#4, 0x20000000#32), (3#4, 0x0#32)] 0) 0x20000000#32 0x7fff#32)
    (fun t => decide (t.reg 1#4 = 0x7fff#32 ∧ t.reg 15#4 = 0x800000a#32 ∧ t.apsr = 0x0#32 ∧ faultCode t = 0)) = true := by decide +kernel
theorem test_step_STR_imm_1 : afterStep (putWord (boot 0x8000008#32 [0x6011#16] [(1#4, 0x12345678#32), (2#4, 0x8000100#32)] 0) 0x8000100#32 0x0#32)
    (fun t => decide (t.reg 15#4 = 0x800000a#32 ∧ t.apsr = 0x0#32 ∧ faultCode t = 0 ∧ wordAt t 0x8000100#32 = some 0x0#32)) = true := by decide +kernel
theorem test_step_STR_imm_2 : afterStep (boot 0x8000008#32 [0x6009#16] [(1#4, 0x20000008#32)] 0)
    (fun t => decide (t.reg 15#4 = 0x800000a#32 ∧ t.apsr = 0x0#32 ∧ faultCode t = 0 ∧ wordAt t 0x20000008#32 = some 0x20000008#32)) = true := by decide +kernel
theorem test_step_LDR_imm_1 : afterStep (putWord (boot 0x8000008#32 [0x6fd1#16] [(2#4, 0x20000000#32)] 0) 0x2000007c#32 0xcafef00d#32)
    (fun t => decide (t.reg 1#4 = 0xcafef00d#32 ∧ t.reg 15#4 = 0x800000a#32 ∧ t.apsr = 0x0#32 ∧ faultCode t = 0)) = true := by decide +kernel
theorem test_step_LDR_imm_2 : afterStep (boot 0x8000008#32 [0x6811#16] [(2#4, 0x40000002#32)] 0)
    (fun t => decide (t.reg 15#4 = 0x8000008#32 ∧ t.apsr = 0x0#32 ∧ faultCode t = 2)) = true := by decide +kernel
theorem test_step_STRB_imm_1 : afterStep ((boot 0x8000008#32 [0x7011#16] [(1#4, 0xabcd#32), (2#4, 0x20000001#32)] 0).poke 0x20000001#32 0x0#8)
    (fun t => decide (t.reg 15#4 = 0x800000a#32 ∧ t.apsr = 0x0#32 ∧ faultCode t = 0 ∧ t.peek 0x20000001#32 = some 0xcd#8)) = true := by decide +kernel
theorem test_step_LDRB_imm_1 : afterStep ((boot 0x8000008#32 [0x7fd1#16] [(2#4, 0x20000000#32)] 0).poke 0x2000001f#32 0xff#8)
    (fun t => decide (t.reg 1#4 = 0xff#32 ∧ t.reg 15#4 = 0x800000a#32 ∧ t.apsr = 0x0#32 ∧ faultCode t = 0)) = true := by decide +kernel
theorem test_step_STRH_imm_1 : afterStep (putWord (boot 0x8000008#32 [0x8011#16] [(1#4, 0xffff8000#32), (2#4, 0x20000002#32)] 0) 0x20000000#32 0x0#32)
    (fun t => decide (t.reg 15#4 = 0x800000a#32 ∧ t.apsr = 0x0#32 ∧ faultCode t = 0 ∧ wordAt t 0x20000000#32 = some 0x80000000#32)) = true := by decide +kernel
theorem test_step_LDRH_imm_1 : afterStep (boot 0x8000008#32 [0x8811#16] [(2#4, 0x20000001#32)] 0)
    (fun t => decide (t.reg 15#4 = 0x8000008#32 ∧ t.apsr = 0x0#32 ∧ faultCode t = 2)) = true := by decide +kernel
theorem test_step_LDRH_imm_2 : afterStep (putWord (boot 0x8000008#32 [0x8fd1#16] [(2#4, 0x20000000#32)] 0) 0x2000003c#32 0x80010000#32)
    (fun t => decide (t.reg 1#4 = 0x8001#32 ∧ t.reg 15#4 = 0x800000a#32 ∧ t.apsr = 0x0#32 ∧ faultCode t = 0)) = true := by decide +kernel
theorem test_step_STR_sp_1 : afterStep (putWord (boot 0x8000008#32 [0x90ff#16] [(0#4, 0x9#32), (13#4, 0x20000000#32)] 0) 0x200003fc#32 0x0#32)
    (fun t => decide (t.reg 15#4 = 0x800000a#32 ∧ t.apsr = 0x0#32 ∧ faultCode t = 0 ∧ wordAt t 0x200003fc#32 = some 0x9#32)) = true := by decide +kernel
theorem test_step_LDR_sp_1 : afterStep (boot 0x8000008#32 [0x9800#16] [(13#4, 0x20000002#32)] 0)
    (fun t => decide (t.reg 15#4 = 0x8000008#32 ∧ t.apsr = 0x0#32 ∧ faultCode t = 2)) = true := by decide +kernel
theorem test_step_ADR_1 : afterStep (boot 0x800000a#32 [0xa000#16] [] 0)
    (fun t => decide (t.reg 0#4 = 0x800000c#32 ∧ t.reg 15#4 = 0x800000c#32 ∧ t.apsr = 0x0#32 ∧ faultCode t = 0)) = true := by decide +kernel
theorem test_step_ADR_2 : afterStep (boot 0x8000008#32 [0xa7ff#16] [] 0)
    (fun t => decide (t.reg 7#4 = 0x8000408#32 ∧ t.reg 15#4 = 0x800000a#32 ∧ t.apsr = 0x0#32 ∧ faultCode t = 0)) = true := by decide +kernel
theorem test_step_ADD_Rd_SP_1 : afterStep (boot 0x8000008#32 [0xa8ff#16] [(13#4, 0x20000000#32)] 0)
    (fun t => decide (t.reg 0#4 = 0x200003fc#32 ∧ t.reg 15#4 = 0x800000a#32 ∧ t.apsr = 0x0#32 ∧ faultCode t = 0)) = true := by decide +kernel
theorem test_step_ADD_SP_imm_1 : afterStep (boot 0x8000008#32 [0xb07f#16] [(13#4, 0x20000000#32)] 0)
    (fun t => decide (t.reg 13#4 = 0x200001fc#32 ∧ t.reg 15#4 = 0x800000a#32 ∧ t.apsr = 0x0#32 ∧ faultCode t = 0)) = true := by decide +kernel
theorem test_step_SUB_SP_imm_1 : afterStep (boot 0x8000008#32 [0xb0ff#16] [(13#4, 0x20002000#32)] 0)
    (fun t => decide (t.reg 13#4 = 0x20001e04#32 ∧ t.reg 15#4 = 0x800000a#32 ∧ t.apsr = 0x0#32 ∧ faultCode t = 0)) = true := by decide +kernel
theorem test_step_SUB_SP_imm_2 : afterStep (boot 0x8000008#32 [0xb081#16] [(13#4, 0x0#32)] 0)
    (fun t => decide (t.reg 13#4 = 0xfffffffc#32 ∧ t.reg 15#4 = 0x800000a#32 ∧ t.apsr = 0x0#32 ∧ faultCode t = 0)) = true := by decide +kernel
theorem test_step_PUSH_1 : afterStep (boot 0x8000008#32 [0xb5ff#16] [(0#4, 0x0#32), (1#4, 0x1#32), (2#4, 0x2#32), (3#4, 0x3#32), (4#4, 0x4#32), (5#4, 0x5#32), (6#4, 0x6#32), (7#4, 0x7#32), (13#4, 0x20002000#32), (14#4, 0x800000d#32)] 0)
    (fun t => decide (t.reg 13#4 = 0x20001fdc#32 ∧ t.reg 15#4 = 0x800000a#32 ∧ t.apsr = 0x0#32 ∧ faultCode t = 0 ∧ wordAt t 0x20001fdc#32 = some 0x0#32 ∧ wordAt t 0x20001fe0#32 = some 0x1#32 ∧ wordAt t 0x20001fe4#32 = some 0x2#32 ∧ wordAt t 0x20001fe8#32 = some 0x3#32 ∧ wordAt t 0x20001fec#32 = some 0x4#32 ∧ wordAt t 0x20001ff0#32 = some 0x5#32 ∧ wordAt t 0x20001ff4#32 = some 0x6#32 ∧ wordAt t 0x20001ff8#32 = some 0x7#32 ∧ wordAt t 0x20001ffc#32 = some 0x800000d#32)) = true := by decide +kernel
theorem test_step_PUSH_2 : afterStep (boot 0x8000008#32 [0xb407#16] [(0#4, 0x1#32), (1#4, 0x2#32), (2#4, 0x3#32), (13#4, 0x20002008#32)] 0)
    (fun t => decide (t.reg 15#4 = 0x8000008#32 ∧ t.reg 13#4 = 0x20002008#32 ∧ t.apsr = 0x0#32 ∧ faultCode t = 3)) = true := by decide +kernel
theorem test_step_POP_1 : afterStep (boot 0x8000008#32 [0xbc00#16] [] 0)
    (fun t => decide (t.reg 15#4 = 0x8000008#32 ∧ t.apsr = 0x0#32 ∧ faultCode t = 4)) = true := by decide +kernel
theorem test_step_POP_2 : afterStep (putWord (boot 0x8000008#32 [0xbd01#16] [(13#4, 0x20001ffc#32)] 0) 0x20001ffc#32 0x5#32)
    (fun t => decide (t.reg 15#4 = 0x8000008#32 ∧ t.reg 13#4 = 0x20001ffc#32 ∧ t.apsr = 0x0#32 ∧ faultCode t = 3)) = true := by decide +kernel
theorem test_step_BEQ_1 : afterStep (boot 0x8000008#32 [0xd002#16] [] 4)
    (fun t => decide (t.reg 15#4 = 0x8000010#32 ∧ t.apsr = 0x40000000#32 ∧ faultCode t = 0)) = true := by decide +kernel
theorem test_step_BEQ_2 : afterStep (boot 0x8000200#32 [0xd080#16] [] 4)
    (fun t => decide (t.reg 15#4 = 0x8000104#32 ∧ t.apsr = 0x40000000#32 ∧ faultCode t = 0)) = true := by decide +kernel
theorem test_step_BNE_1 : afterStep (boot 0x8000008#32 [0xd102#16] [] 0)
    (fun t => decide (t.reg 15#4 = 0x8000010#32 ∧ t.apsr = 0x0#32 ∧ faultCode t = 0)) = true := by decide +kernel
theorem test_step_BNE_2 : afterStep (boot 0x8000008#32 [0xd17f#16] [] 0)
    (fun t => decide (t.reg 15#4 = 0x800010a#32 ∧ t.apsr = 0x0#32 ∧ faultCode t = 0)) = true := by decide +kernel
theorem test_step_BCS_1 : afterStep (boot 0x8000008#32 [0xd202#16] [] 2)
    (fun t => decide (t.reg 15#4 = 0x8000010#32 ∧ t.apsr = 0x20000000#32 ∧ faultCode t = 0)) = true := by decide +kernel
theorem test_step_BCS_2 : afterStep (boot 0x8000008#32 [0xd202#16] [] 0)
    (fun t => decide (t.reg 15#4 = 0x800000a#32 ∧ t.apsr = 0x0#32 ∧ faultCode t = 0)) = true := by decide +kernel
theorem test_step_BCC_1 : afterStep (boot 0x8000008#32 [0xd302#16] [] 0)
    (fun t => decide (t.reg 15#4 = 0x8000010#32 ∧ t.apsr = 0x0#32 ∧ faultCode t = 0)) = true := by decide +kernel
theorem test_step_BCC_2 : afterStep (boot 0x8000008#32 [0xd302#16] [] 2)
    (fun t => decide (t.reg 15#4 = 0x800000a#32 ∧ t.apsr = 0x20000000#32 ∧ faultCode t = 0)) = true := by decide +kernel
theorem test_step_BMI_1 : afterStep (boot 0x8000008#32 [0xd402#16] [] 8)
    (fun t => decide (t.reg 15#4 = 0x8000010#32 ∧ t.apsr = 0x80000000#32 ∧ faultCode t = 0)) = true := by decide +kernel
theorem test_step_BMI_2 : afterStep (boot 0x8000008#32 [0xd402#16] [] 0)
    (fun t => decide (t.reg 15#4 = 0x800000a#32 ∧ t.apsr = 0x0#32 ∧ faultCode t = 0)) = true := by decide +kernel
theorem test_step_BPL_1 : afterStep (boot 0x8000008#32 [0xd502#16] [] 0)
    (fun t => decide (t.reg 15#4 = 0x8000010#32 ∧ t.apsr = 0x0#32 ∧ faultCode t = 0)) = true := by decide +kernel
theorem test_step_BPL_2 : afterStep (boot 0x8000008#32 [0xd502#16] [] 8)
    (fun t => decide (t.reg 15#4 = 0x800000a#32 ∧ t.apsr = 0x80000000#32 ∧ faultCode t = 0)) = true := by decide +kernel
theorem test_step_BVS_1 : afterStep (boot 0x8000008#32 [0xd602#16] [] 1)
    (fun t => decide (t.reg 15#4 = 0x8000010#32 ∧ t.apsr = 0x10000000#32 ∧ faultCode t = 0)) = true := by decide +kernel
theorem test_step_BVS_2 : afterStep (boot 0x8000008#32 [0xd602#16] [] 0)
    (fun t => decide (t.reg 15#4 = 0x800000a#32 ∧ t.apsr = 0x0#32 ∧ faultCode t = 0)) = true := by decide +kernel
theorem test_step_BVC_1 : afterStep (boot 0x8000008#32 [0xd702#16] [] 0)
    (fun t => decide (t.reg 15#4 = 0x8000010#32 ∧ t.apsr = 0x0#32 ∧ faultCode t = 0)) = true := by decide +kernel
theorem test_step_BVC_2 : afterStep (boot 0x8000008#32 [0xd702#16] [] 1)
    (fun t => decide (t.reg 15#4 = 0x800000a#32 ∧ t.apsr = 0x10000000#32 ∧ faultCode t = 0)) = true := by decide +kernel
theorem test_step_BHI_1 : afterStep (boot 0x8000008#32 [0xd802#16] [] 2)
    (fun t => decide (t.reg 15#4 = 0x8000010#32 ∧ t.apsr = 0x20000000#32 ∧ faultCode t = 0)) = true := by decide +kernel
theorem test_step_BHI_2 : afterStep (boot 0x8000008#32 [0xd802#16] [] 10)
    (fun t => decide (t.reg 15#4 = 0x8000010#32 ∧ t.apsr = 0xa0000000#32 ∧ faultCode t = 0)) = true := by decide +kernel
theorem test_step_BLS_1 : afterStep (boot 0x8000008#32 [0xd902#16] [] 6)
    (fun t => decide (t.reg 15#4 = 0x8000010#32 ∧ t.apsr = 0x60000000#32 ∧ faultCode t = 0)) = true := by decide +kernel
theorem test_step_BLS_2 : afterStep (boot 0x8000008#32 [0xd902#16] [] 0)
    (fun t => decide (t.reg 15#4 = 0x8000010#32 ∧ t.apsr = 0x0#32 ∧ faultCode t = 0)) = true := by decide +kernel
theorem test_step_BGE_1 : afterStep (boot 0x8000008#32 [0xda02#16] [] 9)
    (fun t => decide (t.reg 15#4 = 0x8000010#32 ∧ t.apsr = 0x90000000#32 ∧ faultCode t = 0)) = true := by decide +kernel
theorem test_step_BGE_2 : afterStep (boot 0x8000008#32 [0xda02#16] [] 8)
    (fun t => decide (t.reg 15#4 = 0x800000a#32 ∧ t.apsr = 0x80000000#32 ∧ faultCode t = 0)) = true := by decide +kernel
theorem test_step_BLT_1 : afterStep (boot 0x8000008#32 [0xdb02#16] [] 8)
    (fun t => decide (t.reg 15#4 = 0x8000010#32 ∧ t.apsr = 0x80000000#32 ∧ faultCode t = 0)) = true := by decide +kernel
theorem test_step_BLT_2 : afterStep (boot 0x8000008#32 [0xdb02#16] [] 9)
    (fun t => decide (t.reg 15#4 = 0x800000a#32 ∧ t.apsr = 0x90000000#32 ∧ faultCode t = 0)) = true := by decide +kernel
theorem test_step_BGT_1 : afterStep (boot 0x8000008#32 [0xdc02#16] [] 0)
    (fun t => decide (t.reg 15#4 = 0x8000010#32 ∧ t.apsr = 0x0#32 ∧ faultCode t = 0)) = true := by decide +kernel
theorem test_step_BGT_2 : afterStep (boot 0x8000008#32 [0xdc02#16] [] 9)
    (fun t => decide (t.reg 15#4 = 0x8000010#32 ∧ t.apsr = 0x90000000#32 ∧ faultCode t = 0)) = true := by decide +kernel
theorem test_step_BLE_1 : afterStep (boot 0x8000008#32 [0xdd02#16] [] 4)
    (fun t => decide (t.reg 15#4 = 0x8000010#32 ∧ t.apsr = 0x40000000#32 ∧ faultCode t = 0)) = true := by decide +kernel
theorem test_step_BLE_2 : afterStep (boot 0x8000008#32 [0xdd02#16] [] 8)
    (fun t => decide (t.reg 15#4 = 0x8000010#32 ∧ t.apsr = 0x80000000#32 ∧ faultCode t = 0)) = true := by decide +kernel
theorem test_step_BAL_1 : afterStep (boot 0x8000008#32 [0xde00#16] [] 15)
    (fun t => decide (t.reg 15#4 = 0x800000c#32 ∧ t.apsr = 0xf0000000#32 ∧ faultCode t = 0)) = true := by decide +kernel
theorem test_step_B_1 : afterStep (boot 0x8000008#32 [0xe7fe#16] [] 0)
    (fun t => decide (t.reg 15#4 = 0x8000008#32 ∧ t.apsr = 0x0#32 ∧ faultCode t = 0)) = true := by decide +kernel
theorem test_step_B_2 : afterStep (boot 0x8000008#32 [0xe7ff#16] [] 0)
    (fun t => decide (t.reg 15#4 = 0x800000a#32 ∧ t.apsr = 0x0#32 ∧ faultCode t = 0)) = true := by decide +kernel
theorem test_step_BL_1 : afterStep (boot 0x8000008#32 [0xf000#16, 0xf8fa#16] [] 0)
    (fun t => decide (t.reg 14#4 = 0x800000d#32 ∧ t.reg 15#4 = 0x8000200#32 ∧ t.apsr = 0x0#32 ∧ faultCode t = 0)) = true := by decide +kernel
theorem test_step_BL_2 : afterStep (boot 0x8000100#32 [0xf7ff#16, 0xff7e#16] [] 0)
    (fun t => decide (t.reg 14#4 = 0x8000105#32 ∧ t.reg 15#4 = 0x8000000#32 ∧ t.apsr = 0x0#32 ∧ faultCode t = 0)) = true := by decide +kernel
theorem test_step_undefined_1 : afterStep (boot 0x8000008#32 [0xdf00#16] [] 0)
    (fun t => decide (t.reg 15#4 = 0x8000008#32 ∧ t.apsr = 0x0#32 ∧ faultCode t = 1)) = true := by decide +kernel
theorem test_step_undefined_2 : afterStep (boot 0x8000008#32 [0xf000#16, 0xe800#16] [] 0)
    (fun t => decide (t.reg 15#4 = 0x8000008#32 ∧ t.apsr = 0x0#32 ∧ faultCode t = 1)) = true := by decide +kernel

/-- The example of R208. -/
theorem test_step_STR_reg_1 :
    afterStep (boot 0x8000008#32 [0x50D1#16] [(1#4, 7#32), (2#4, 0x20000000#32), (3#4, 8#32)] 0)
    (fun t => decide (wordAt t 0x20000008#32 = some 7#32 ∧ t.pc = 0x800000A#32 ∧ t.apsr = 0#32)) = true := by decide +kernel

/-- The example of R211. -/
theorem test_step_LDRH_reg_1 :
    afterStep (putWord (boot 0x8000008#32 [0x5AD1#16] [(2#4, 0x20000000#32), (3#4, 0#32)] 0) 0x20000000#32 0xDEADBEEF#32)
    (fun t => decide (t.reg 1#4 = 0xBEEF#32 ∧ t.pc = 0x800000A#32)) = true := by decide +kernel

/-- R297: the core halts at HALT_ADDR without fetching; the other steps of Idle and Halted change nothing (R28). -/
theorem test_halt_addr :
    afterStep { boot 0x8000008#32 [0x2101#16] [] 0 with params := { Config.defaultParams with haltAddr := some 0x8000008#32 } }
    (fun t => decide (t.run = .halted ∧ t.fault = none ∧ t.reg 1#4 = 0#32 ∧ t.pc = 0x8000008#32)) = true := by decide +kernel

theorem test_idle_step : afterStep State.reset (fun t => t == State.reset) = true := by decide +kernel

/-- The machine that the host asks about: the instruction placed at PC is the one that the next step runs. -/
theorem test_with_fetch_word :
    afterStep (State.reset.withFetchWord 16 0x21FF) (fun t => decide (t.reg 1#4 = 0xFF#32 ∧ t.pc = 0x800000A#32)) = true := by
  decide +kernel

theorem test_with_fetch_word_bl :
    afterStep (State.reset.withFetchWord 32 0xF000F87A) (fun t => decide (t.reg LR = 0x800000D#32 ∧ t.pc = 0x8000100#32))
      = true := by
  decide +kernel

/-! ## The memory, the pattern engine, the host and the assembler's side -/

theorem test_reset_memory_wf : State.reset.mem.wf := by decide
theorem test_memory_refuses_descending : ¬ Memory.wf [(2, 0#8), (1, 0#8)] := by decide
theorem test_memory_refuses_outside : ¬ Memory.wf [(2 ^ 32, 0#8)] := by decide

/-- The pattern of the vectors W7 of 95_test_vectors.md. -/
def patternW7 : Pattern := (parsePattern "0001110XXXXXXXXX").getD []

theorem test_pattern_create : create patternW7 = 0x1C00#16 := by decide +kernel
theorem test_pattern_set : setBits (create patternW7) patternW7 0x40 = 0x1C40#16 := by decide +kernel
theorem test_pattern_get : getBits 0x1C40#16 patternW7 = 0x40 := by decide +kernel
theorem test_pattern_negative_fill :
    setBits 0xE000#16 ((parsePattern "11100XXXXXXXXXXX").getD []) (-1) = 0xE7FF#16 := by decide +kernel
theorem test_pattern_short : (parsePattern "000111").isNone = true := by decide +kernel

theorem test_value_range : (unsignedValue 8 256).isNone = true ∧ (signedValue 8 (-128)).isSome = true ∧
    (binaryValue 32 (.integer .signed (2 ^ 31))).isNone = true ∧ (binaryValue 32 .notInteger).isNone = true := by decide
theorem test_toggle_bit : toggleBit 0xF0#32 31 = 0x800000F0#32 := by decide

/-- The words that assembling gives, or the kind of the error. -/
def assembled (site : Word) (target : Option Word) (m : Mnemonic) (ops : List Operand) : List Halfword × Option EncodeErrorKind :=
  match assembleOpcode ⟨site, some (match target with | some t => [("L", t)] | none => [])⟩ m ops with
  | .ok (.one h) => ([h], none)
  | .ok (.two h1 h2) => ([h1, h2], none)
  | .error e => ([], some e.kind)

/-- Vectors of section 2.8 of 95_test_vectors.md. -/
theorem test_assemble_adds_picks_imm3 : assembled 0#32 none .adds [.reg 0#4, .reg 0#4, .imm 1] = ([0x1C40#16], none) := by
  decide +kernel
theorem test_assemble_push_range :
    assembled 0#32 none .push [.list [.range 4#4 7#4, .single 14#4]] = ([0xB5F0#16], none) := by decide +kernel
theorem test_assemble_duplicate :
    assembled 0#32 none .push [.list [.range 1#4 3#4, .single 2#4]] = ([], some .duplicateRegister) := by decide +kernel
theorem test_assemble_bl :
    assembled 0x8000008#32 (some 0x8000100#32) .bl [.label "L"] = ([0xF000#16, 0xF87A#16], none) := by decide +kernel
theorem test_assemble_misaligned_offset :
    assembled 0#32 none .ldr [.reg 1#4, .memImm 2#4 0x11] = ([], some .immediateNotAligned) := by decide +kernel
/-- The SP forms are checked as SP forms (R82, R83). -/
theorem test_assemble_sp_offsets :
    assembled 0#32 none .ldr [.reg 1#4, .memImm 13#4 2] = ([], some .immediateNotAligned) ∧
    assembled 0#32 none .str [.reg 1#4, .memImm 13#4 1024] = ([], some .immediateTooWide) ∧
    assembled 0#32 none .add [.reg 13#4, .reg 13#4, .imm 2] = ([], some .immediateNotAligned) ∧
    assembled 0#32 none .add [.reg 13#4, .reg 13#4, .imm 512] = ([], some .immediateTooWide) := by decide +kernel
theorem test_assemble_missing_hash :
    assembled 0#32 none .ldr [.reg 1#4, .memBare 2#4 4] = ([], some .malformed) := by decide +kernel
theorem test_assemble_descending_range :
    assembled 0#32 none .push [.list [.range 7#4 4#4]] = ([], some .malformed) := by decide +kernel
theorem test_assemble_unresolved : assembled 0#32 none .b [.label "L"] = ([], some .unresolvedLabel) := by decide +kernel
/-- The words that encoding operand strings gives, or the kind of the error. -/
def encoded (name : String) (texts : List String) : List Halfword × Option EncodeErrorKind :=
  match encodeText ⟨0x800000A#32, some [("label", 0x8000010#32), ("=0x1F", 0x8000010#32)]⟩ name texts with
  | .ok (.one h) => ([h], none)
  | .ok (.two h1 h2) => ([h1, h2], none)
  | .error e => ([], some e.kind)

/-- A register list in its braces. -/
def braced (items : String) : String := String.ofList (Char.ofNat 123 :: items.toList ++ [Char.ofNat 125])

/-- Vectors of section 2.8 of 95_test_vectors.md and the examples of R82 and R83, from their text. -/
theorem test_text_immediate : encoded "adds" ["r0", "R0", "#1"] = ([0x1C40#16], none) := by decide +kernel
theorem test_text_no_hash : encoded "MOVS" ["R0", "1"] = ([], some .malformed) := by decide +kernel
theorem test_text_list : encoded "PUSH" [braced "R4-R7, LR"] = ([0xB5F0#16], none) := by decide +kernel
theorem test_text_empty_list : (encoded "POP" [braced ""]).2.isSome = true := by decide +kernel
theorem test_text_label : encoded "LDR" ["R0", "label"] = ([0x4801#16], none) := by decide +kernel
theorem test_text_literal : encoded "LDR" ["R0", "=0x1F"] = ([0x4801#16], none) := by decide +kernel
theorem test_text_misaligned : encoded "STRH" ["R1", "[R2,#0x9]"] = ([], some .immediateNotAligned) := by decide +kernel
theorem test_text_brackets : encoded "LDR" ["R1", "[R2, #4"] = ([], some .malformed) ∧
    encoded "LDR" ["R1", "[R2]"] = ([0x6811#16], none) := by decide +kernel
theorem test_text_unknown : encoded "NOP" [] = ([], some .noEntry) := by decide +kernel
theorem test_vector_table : vectorTable = [0x00#8, 0x20#8, 0x00#8, 0x20#8, 0x08#8, 0x00#8, 0x00#8, 0x08#8] := by decide +kernel
theorem test_directive_word : directiveBytes (.dcd [0x12345678#32]) = [0x78#8, 0x56#8, 0x34#8, 0x12#8] := by decide +kernel

/-- An image of two bytes, loaded at the start of the code in flash (R292). -/
def twoBytes : Image := ⟨[0x11#8, 0x00#8], [⟨0, 2, 0x8000008#32⟩]⟩

/-- The state that a host operation leaves, or the reset state. -/
def afterHost (op : HostOp) (s : State) : State :=
  match hostOp op s with
  | .next t => t
  | _ => State.reset

theorem test_host_load_and_run :
    afterStep (afterHost .execute (afterHost (.loadImage twoBytes) State.reset))
      (fun t => decide (t.pc = 0x800000A#32 ∧ t.fault = none ∧ t.flagZ = true)) = true := by decide +kernel

/-- Whether an operation fails with a fault. -/
def failsWith (o : Host.Outcome State Fault Refusal) (f : Fault) : Bool :=
  match o with
  | .fault g => g == f
  | _ => false

theorem test_host_write_range :
    failsWith (hostOp (.writeReg (.general 3#4) (.integer .unsigned (2 ^ 32))) State.reset) .rangeError = true ∧
    failsWith (hostOp (.writeReg (.general 3#4) .notInteger) State.reset) .rangeError = true ∧
    (afterHost (.writeReg (.general 15#4) (.integer .unsigned 0x08000101)) State.reset).pc = 0x8000100#32 := by
  decide +kernel

/-- Whether an operation is refused. -/
def refusedBy (o : Host.Outcome State Fault Refusal) (r : Refusal) : Bool :=
  match o with
  | .refused q => q == r
  | _ => false

theorem test_host_read_memory :
    (match (putWord State.reset 0x20000000#32 0xDEADBEEF#32).hostReadMemory .half 0x20000002#32 with
      | .ok r => r.1 == 0xDEAD#32
      | .error _ => false) = true ∧
    (match State.reset.hostReadMemory .word 0x20000002#32 with
      | .ok _ => false
      | .error f => f == .hostMisaligned 0x20000002#32) = true := by decide +kernel

theorem test_host_reset_refused : refusedBy (hostOp .reset { State.reset with run := .running }) .resetWhileRunning = true := by
  decide +kernel

/-! ## What meets the hypotheses of the statements -/

/-- A running machine with `ADDS R0, R1, R2` at PC. -/
def running : State := boot 0x8000008#32 [0x1888#16] [(1#4, 2#32), (2#4, 3#32)] 0

/-- A machine that a fault has halted. -/
def faulted : State := { State.reset with run := .halted, fault := some (.unpredictable 0x8000008#32 0xB400#16) }

theorem test_witness_DecodeOfEncode : (Instr.lslsImm 7#3 0#3 1#5).wf = true ∧ (Instr.lslsImm 7#3 0#3 31#5).wf = true ∧
    (Instr.push false 0#8).wf = true := by decide

theorem test_witness_EncodeOfDecode : decodesTo (.one 0xDEFF#16) (.bal 0xFF#8) = true ∧
    decodesTo (.two 0xF7FF#16 0xFFFF#16) (.bl 1#1 0x3FF#10 0x7FF#11) = true := by decide +kernel

theorem test_witness_UndefinedEncodings_first :
    [0x4701#16, 0x47FF#16, 0xB100#16, 0xB3FF#16, 0xB600#16, 0xBBFF#16, 0xBE00#16, 0xBFFF#16, 0xC000#16, 0xCFFF#16,
      0xDF00#16, 0xDFFF#16, 0xE800#16, 0xEFFF#16, 0xF800#16, 0xFFFF#16, 0x0000#16, 0xE7FF#16, 0xDEFF#16].all
      (fun h => !startsPair h) = true ∧ startsPair 0xF000#16 = true ∧ startsPair 0xF7FF#16 = true := by decide +kernel

/-- Whether a driven machine fetches an opcode that does not decode. -/
def fetchesUndefined (s : State) (op : Opcode) : Bool :=
  s.driven && !s.atHaltAddr && !(decode op).isOk &&
    match s.beginCycle.fetchOp.2 with
    | .ok q => q == op
    | .error _ => false

theorem test_witness_UndefinedEncodings_cycle :
    fetchesUndefined (boot 0x8000008#32 [0xBE00#16] [] 0) (.one 0xBE00#16) = true ∧
    fetchesUndefined (boot 0x8000008#32 [0xF000#16, 0xF7FF#16] [] 0) (.two 0xF000#16 0xF7FF#16) = true := by decide +kernel

theorem test_witness_patterns : validPattern patternW7 ∧ (0 : Int) < 2 ^ fieldCount patternW7 ∧
    patternW7[7]? = some .any ∧ patternW7[15]? = some .any ∧ patternW7[0]? = some (.fixed false) := by decide +kernel

theorem test_witness_DecodeOrder :
    (catalog[0]?).any (fun q => q.accepts 0x0011#16 && q.form == "MOVS_reg") = true ∧
    (catalog[1]?).any (fun r => r.accepts 0x0011#16 && r.form == "LSLS_imm") = true := by decide +kernel

/-- The hypotheses of the step statement, for one halfword and for a pair. -/
def stepReady (s : State) (op : Opcode) : Bool :=
  s.driven && !s.atHaltAddr && !s.pc.getLsbD 0 && (decode op).isOk &&
    (List.range op.len).all fun k => s.plain (byteAddr s.pc k) && s.peek (byteAddr s.pc k) == op.bytes[k]?

theorem test_witness_StepRunsDecodedInstruction : stepReady running (.one 0x1888#16) = true ∧
    stepReady (boot 0x8000008#32 [0xF000#16, 0xF87A#16] [] 0) (.two 0xF000#16 0xF87A#16) = true := by decide +kernel

theorem test_witness_EndOfRun : State.reset.run ≠ .running ∧ faulted.run ≠ .running ∧ running.run = .running ∧
    running.fault = none ∧ running.params.haltAddr = none ∧
    afterStep (boot 0x8000008#32 [0xBE00#16] [] 0) (fun t => decide (t.run ≠ .running)) = true ∧
    { running with params := { Config.defaultParams with haltAddr := some 0x8000008#32 } }.atHaltAddr = true := by
  decide +kernel

/-- A store of a word and one of a halfword. -/
def storing : State := boot 0x8000008#32 [0x6051#16] [(1#4, 0x12345678#32), (2#4, 0x20000000#32)] 0

theorem test_witness_StoresAreSeenByFetch :
    storeOf (.strImm 1#3 2#3 1#5) storing = some (1#3, .word, 0x20000004#32) ∧
    storeOf (.strhImm 1#3 2#3 1#5) storing = some (1#3, .half, 0x20000002#32) ∧
    (∀ j < 4, storing.writable (byteAddr 0x20000004#32 j) = true) ∧
    (∀ j < 2, storing.writable (byteAddr 0x20000002#32 j) = true) := by decide +kernel

theorem test_witness_Inv : Inv running ∧ Inv State.reset ∧ Inv faulted ∧ afterStep running (fun t => decide (Inv t)) = true := by
  decide +kernel

theorem test_witness_FetchIsAligned : running.pc.getLsbD 0 = false ∧ running.fault = none ∧
    afterStep running (fun _ => true) = true := by decide +kernel

theorem test_witness_run_states : running.run = .running ∧ State.reset.run ≠ .running ∧ State.reset.fault = none ∧
    faulted.run ≠ .running ∧ faulted.fault ≠ none ∧ faulted.run = .halted ∧ State.reset.run = .idle ∧
    running.run ≠ .idle := by decide +kernel

theorem test_witness_FaultedCoreStaysHalted : ReachableNoReset faulted faulted :=
  .host .halt (.tick .start (by rfl)) (by decide) (by rfl)

theorem test_witness_ImageLoad :
    State.reset.run = .idle ∧ 0 + 2 ≤ twoBytes.content.length ∧
    (∀ k < 2, State.reset.plain (byteAddr 0x8000008#32 k) = true) ∧
    (match State.reset.hostLoad twoBytes with
      | .next t => decide (t.run = .idle ∧ t.peek 0x8000008#32 = some 0x11#8)
      | _ => false) = true := by
  decide +kernel

theorem test_witness_access_rules :
    (0x20000001#32 : Word).toNat % Width.half.bytes ≠ 0 ∧ (0x20000002#32 : Word).toNat % Width.word.bytes ≠ 0 ∧
    State.reset.mapped (byteAddr 0x20002000#32 0) = false ∧ State.reset.mapped (byteAddr 0xFFFFFFFC#32 3) = false ∧
    (∀ k < 4, State.reset.mapped (byteAddr 0x20001FFC#32 k) = true) ∧ (0x20001FFC#32 : Word).toNat % Width.word.bytes = 0 ∧
    (∀ k < 4, State.reset.mapped (byteAddr 0x08000000#32 k) = true) := by decide +kernel

theorem test_witness_LittleEndian :
    let s := putWord State.reset 0x20001FFC#32 0xDEADBEEF#32
    (∀ k < 4, s.plain (byteAddr 0x20001FFC#32 k) = true ∧
      s.peek (byteAddr 0x20001FFC#32 k) = some (byteOf 0xDEADBEEF#32 k)) ∧
    (∀ k < 4, s.writable (byteAddr 0x20001FFC#32 k) = true) ∧ (s.memWrite .word 0x20001FFC#32 1#32).isOk = true := by
  decide +kernel

theorem test_witness_ReadOnlyRegions :
    (∀ k < 4, (State.reset.region (byteAddr 0x0800FFFC#32 k)).any (fun r => r.readonly && !r.device) = true) ∧
    (running.region 0x8000008#32).any (fun r => r.readonly) = true := by decide +kernel

/-- A PUSH whose second store is unmapped, and a POP whose second load is. -/
def pushing : State := boot 0x8000008#32 [0xB403#16] [(0#4, 1#32), (1#4, 2#32), (13#4, 0x20002004#32)] 0

def popping : State := putWord (boot 0x8000008#32 [0xBC03#16] [(13#4, 0x20001FFC#32)] 0) 0x20001FFC#32 7#32

theorem test_witness_faults :
    (∀ s ∈ [pushing, popping, boot 0x8000008#32 [0x6851#16] [(2#4, 1#32)] 0, boot 0x8000008#32 [0xBE00#16] [] 0],
      s.fault = none ∧ afterStep s (fun t => decide (t.fault ≠ none)) = true) ∧
    listCount false 3#8 ≠ 0 ∧
    pushing.accessFault .write .word (wordAddr (pushAddr pushing 2) 0) = none ∧
    pushing.accessFault .write .word (wordAddr (pushAddr pushing 2) 1) ≠ none ∧
    popping.accessFault .read .word (wordAddr (popping.reg SP) 0) = none ∧
    popping.accessFault .read .word (wordAddr (popping.reg SP) 1) ≠ none := by decide +kernel

/-- A PUSH and a POP with SP misaligned, and with the second word the first unmapped one. -/
theorem test_witness_block_faults :
    let s := boot 0x8000008#32 [] [(13#4, 0x20001002#32)] 0
    (∀ i ∈ [Instr.push true 3#8, .pop false 1#8], (blockOf i s).any (fun b => b.2.2 ≠ 0) = true) ∧
    (s.reg SP).toNat % 4 ≠ 0 ∧ s.accessFault .write .word (wordAddr (pushAddr s 3) 0) ≠ none ∧
    blockOf (.push false 3#8) pushing = some (.write, 0x20001FFC#32, 2) ∧ (pushing.reg SP).toNat % 4 = 0 ∧
    blockOf (.pop false 3#8) popping = some (.read, 0x20001FFC#32, 2) ∧ (popping.reg SP).toNat % 4 = 0 ∧
    (∀ b < 4, pushing.mapped (byteAddr 0x20001FFC#32 b) = true ∧ popping.mapped (byteAddr 0x20001FFC#32 b) = true) ∧
    pushing.mapped (byteAddr (wordAddr 0x20001FFC#32 1) 0) = false ∧
    popping.mapped (byteAddr (wordAddr 0x20001FFC#32 1) 0) = false := by decide +kernel

theorem test_witness_FetchFaults :
    let s := boot 0x40000000#32 [] [] 0
    let p := boot 0x0800FFFE#32 [0xF000#16] [] 0
    (s.driven = true ∧ s.atHaltAddr = false ∧ s.pc.getLsbD 0 = false ∧ s.mapped (byteAddr s.pc 0) = false) ∧
    (p.driven = true ∧ p.atHaltAddr = false ∧ p.pc.getLsbD 0 = false ∧ startsPair 0xF000#16 = true ∧
      (∀ k < 2, p.plain (byteAddr p.pc k) = true ∧ p.peek (byteAddr p.pc k) = (halfwordBytes 0xF000#16)[k]?) ∧
      p.mapped (byteAddr (p.pc + 2#32) 0) = false) := by decide +kernel

theorem test_witness_LoadAndStoreFaults :
    let s := boot 0x8000008#32 [] [(2#4, 0x20000002#32), (3#4, 0x20002000#32)] 0
    loadOf (.ldrImm 1#3 2#3 0#5) s = some (1#3, .word, 0x20000002#32) ∧
    storeOf (.strImm 1#3 2#3 0#5) s = some (1#3, .word, 0x20000002#32) ∧
    loadOf (.ldrbImm 1#3 3#3 0#5) s = some (1#3, .byte, 0x20002000#32) ∧
    storeOf (.strbImm 1#3 3#3 0#5) s = some (1#3, .byte, 0x20002000#32) ∧
    (0x20000002#32 : Word).toNat % 4 ≠ 0 ∧ s.mapped (byteAddr 0x20002000#32 0) = false := by decide +kernel

theorem test_witness_shifts : (1#5 : BitVec 5) ≠ 0#5 ∧ (0 : Nat) < 255 ∧ (255 : Nat) ≤ 255 ∧ (32 : Nat) ≤ 255 := by decide

theorem test_witness_high_forms : (13#4 : RegNum) ≠ PC ∧ (15#4 : RegNum) = PC := by decide

/-- A load and a store at the last word of RAM, and a load of bytes that nothing has written. -/
theorem test_witness_loads_and_stores :
    let s := putWord (boot 0x8000008#32 [] [(2#4, 0x20001FFC#32), (13#4, 0x20001FFC#32)] 0) 0x20001FFC#32 0x80#32
    (s.reg (low 2#3) + (0#5).setWidth 32 * 4#32).toNat % Width.word.bytes = 0 ∧
    (∀ k < 4, s.mapped (byteAddr (s.reg (low 2#3)) k) = true ∧ s.plain (byteAddr (s.reg (low 2#3)) k) = true ∧
      s.peek (byteAddr (s.reg (low 2#3)) k) ≠ none) ∧
    (∀ k < 4, State.reset.mapped (byteAddr 0x20000000#32 k) = true ∧ State.reset.peek (byteAddr 0x20000000#32 k) = none) := by
  decide +kernel

theorem test_witness_stack :
    let s := boot 0x8000008#32 [] [(13#4, 0x20001000#32)] 0
    listCount true 0xFF#8 = 9 ∧ listCount false 1#8 = 1 ∧ (s.reg SP).toNat % 4 = 0 ∧
    (∀ k < 36, s.mapped (byteAddr (pushAddr s 9) k) = true) ∧ (∀ k < 36, s.mapped (byteAddr (s.reg SP) k) = true) ∧
    (∀ k < 36, s.writable (byteAddr (pushAddr s 9) k) = true) := by decide +kernel

/-- Every condition but AL holds for some flags and fails for others; AL holds for all. -/
theorem test_witness_ConditionalBranches :
    (∀ c ∈ [Cond.eq, .ne, .cs, .cc, .mi, .pl, .vs, .vc, .hi, .ls, .ge, .lt, .gt, .le],
      (∃ w ∈ List.range 16, (boot 0#32 [] [] w).conditionPassed c = true) ∧
      (∃ w ∈ List.range 16, (boot 0#32 [] [] w).conditionPassed c = false)) ∧
    (∀ w ∈ List.range 16, (boot 0#32 [] [] w).conditionPassed .al = true) := by decide +kernel

theorem test_witness_ConditionsAfterCompare :
    afterStep (boot 0x8000008#32 [0x4291#16] [(1#4, 1#32), (2#4, 0x80000000#32)] 0)
      (fun t => t.conditionPassed .gt && t.conditionPassed .cc) = true ∧
    afterStep (boot 0x8000008#32 [0x28FF#16] [(0#4, 0xFF#32)] 0) (fun t => t.conditionPassed .eq) = true ∧
    afterStep (boot 0x8000008#32 [0x45F8#16] [(8#4, 0#32)] 0) (fun t => t.conditionPassed .cc) = true := by decide +kernel

theorem test_witness_CallAndReturn :
    let s := boot 0x8000008#32 [] [(1#4, 0x8000101#32)] 0
    let u := putWord (s.setReg LR 0x800000D#32) 0x20001FFC#32 0x800000D#32
    s.pc.getLsbD 0 = false ∧
    (match exec (.bl 0#1 0#10 0x7A#11) s, exec (.blx 1#4) s with
      | .next t, .next t' => t.reg LR = 0x800000D#32 ∧ t'.reg LR = 0x800000B#32 ∧ u.reg LR = t.reg LR ∧
          holdsWord (u.setReg SP 0x20001FFC#32) 0x20001FFC#32 (t.reg LR)
      | _, _ => False) := by
  refine ⟨by decide +kernel, ?_⟩
  exact ⟨by decide +kernel, by decide +kernel, by decide +kernel, by unfold holdsWord; decide +kernel⟩

theorem test_witness_ApsrLowBits : sameButApsrLow running { running with apsr := 0x0FFFFFFF#32 } := ⟨0xFFFFFFF#28, by decide +kernel⟩

theorem test_witness_FlagWriters : writesNoFlag (.pop true 0#8) = true ∧ writesNZOnly (.muls 0#3 1#3) = true ∧
    writesNZC (.rors 0#3 1#3) = true ∧ (running.reg (low 3#3)).toNat % 256 = 0 := by decide +kernel

/-- Each kind of write that the statement bounds does occur. -/
theorem test_witness_RegisterWriters :
    (match exec (.movHi 8#4 1#4) running, exec (.addSpImm 1#7) running, exec (.blx 1#4) running, exec (.strSp 1#3 0#8)
        (running.setReg SP 0x20000000#32) with
      | .next a, .next b, .next c, .next d => decide (a.reg 8#4 ≠ running.reg 8#4 ∧ b.reg SP ≠ running.reg SP ∧
          c.reg LR ≠ running.reg LR ∧ c.reg PC ≠ running.reg PC ∧ d.mem ≠ running.mem)
      | _, _, _, _ => false) = true := by decide +kernel

theorem test_witness_labels :
    lookupLabel [("L", 0x8000100#32)] "L" = .ok 0x8000100#32 ∧
    assemble ⟨0x8000008#32, some [("L", 0x8000100#32)]⟩ .bl [.label "L"] = .ok (.bl 0#1 0#10 0x7A#11) ∧
    assemble ⟨0x8000008#32, some [("L", 0x8000100#32)]⟩ (.bcond .eq) [.label "L"] = .ok (.beq 0x7A#8) ∧
    assemble ⟨0x8000008#32, some [("L", 0x8000100#32)]⟩ .b [.label "L"] = .ok (.b 0x7A#11) ∧
    assemble ⟨0x8000008#32, some [("L", 0x8000100#32)]⟩ .adr [.reg (low 0#3), .label "L"] = .ok (.adr 0#3 0x3D#8) ∧
    assemble ⟨0x8000008#32, some [("L", 0x8000100#32)]⟩ .ldr [.reg (low 0#3), .label "L"] = .ok (.ldrLit 0#3 0x3D#8) ∧
    running.pc = 0x8000008#32 := by decide +kernel

/-- The branch ranges at their ends (R84). -/
theorem test_witness_BranchDisplacements :
    assemble ⟨0x8000008#32, some [("L", 0x800010A#32)]⟩ (.bcond .eq) [.label "L"] = .ok (.beq 0x7F#8) ∧
    (assemble ⟨0x8000008#32, some [("L", 0x800010C#32)]⟩ (.bcond .eq) [.label "L"]).isOk = false ∧
    assemble ⟨0x8000008#32, some [("L", 0x7FFFF0C#32)]⟩ (.bcond .eq) [.label "L"] = .ok (.beq 0x80#8) ∧
    (assemble ⟨0x8000008#32, some [("L", 0x800000D#32)]⟩ .b [.label "L"]).isOk = false ∧
    assemble ⟨0x8000008#32, none⟩ .bl [.label "L"] = .ok (.bl 0#1 0#10 0#11) := by decide +kernel

theorem test_witness_OperandChecks :
    listRegs [.range 0#4 7#4, .single 14#4] =
      .ok [0#4, 1#4, 2#4, 3#4, 4#4, 5#4, 6#4, 7#4, 14#4] ∧
    assemble ⟨0#32, none⟩ .push [.list [.range 0#4 7#4, .single 14#4]] = .ok (.push true 0xFF#8) ∧ listRegs [] = .ok [] ∧
    assemble ⟨0#32, none⟩ .pop [.list [.range 0#4 7#4, .single 15#4]] = .ok (.pop true 0xFF#8) ∧
    listRegs [.single 1#4, .single 1#4] = .ok [1#4, 1#4] ∧ (8#4 : RegNum) ≠ SP ∧ (0#4 : RegNum) ≠ 1#4 := by
  decide +kernel

theorem test_witness_OperandChecks_literal :
    let ctx : EncodeContext := ⟨0x800000A#32, some [("L", 0x8000408#32), ("M", 0x800040C#32)]⟩
    lookupLabel [("L", 0x8000408#32), ("M", 0x800040C#32)] "M" = .ok 0x800040C#32 ∧
    assemble ctx .ldr [.reg 0#4, .label "L"] = .ok (.ldrLit 0#3 0xFF#8) ∧
    assemble ctx .adr [.reg 0#4, .label "M"] = .error ⟨.immediateTooWide, .adr, [.reg 0#4, .label "M"]⟩ ∧
    assemble ⟨0#32, none⟩ .ldr [.reg 0#4, .label "L"] = .ok (.ldrLit 0#3 0#8) := by decide +kernel

theorem test_witness_InstructionErrors :
    (assemble ⟨0#32, none⟩ .movs [.reg 8#4, .imm 1]).isOk = false ∧ 3 ∉ operandCounts .movs ∧ 2 ∈ operandCounts .movs ∧
    readMnemonic "NOP" = none ∧ readMnemonic "movs" = some .movs ∧ readOperand "[R1" = none ∧
    readOperand "r1" = some (.reg 1#4) ∧ readOperand "#0x11" = some (.imm 17) := by decide +kernel

theorem test_witness_AssembledDecodes :
    assemble ⟨0#32, none⟩ .ands [.reg 1#4, .reg 2#4] = .ok (.ands 1#3 2#3) ∧ needsLabelOffsets (.ands 1#3 2#3) = false ∧
    assemble ⟨0#32, none⟩ .b [.label "L"] = .ok (.b 0#11) ∧ needsLabelOffsets (.b 0#11) = true := by decide +kernel

theorem test_witness_HostRegisterWrites :
    binaryValue 32 (.integer .unsigned 0xFFFFFFFF) = some 0xFFFFFFFF#32 ∧
    binaryValue 32 (.integer .signed (-2 ^ 31)) = some 0x80000000#32 ∧ State.reset.run = .idle ∧ running.run ≠ .idle := by
  decide +kernel

end Sys2Proof.Tests
end

section
/-! PROOFS. The host's run-state transitions and the reset values (R29, R37). -/

namespace Sys2Proof.Machine

/-! ## The host's run-state operations -/

theorem hostExecute_of_running (s : State) (h : s.run = .running) : s.hostExecute = .next s := if_pos h

theorem hostExecute_of_no_fault (s : State) (h : s.run ≠ .running) (hf : s.fault = none) :
    s.hostExecute = .next { s with run := .running } := (if_neg h).trans (if_pos hf)

theorem hostExecute_of_fault (s : State) (h : s.run ≠ .running) (hf : s.fault ≠ none) :
    s.hostExecute = .refused .executeAfterFault := (if_neg h).trans (if_neg hf)

theorem hostHalt_of_running (s : State) (h : s.run = .running) : s.hostHalt = .next s.halt := if_pos h

theorem hostHalt_of_not_running (s : State) (h : s.run ≠ .running) : s.hostHalt = .next s := if_neg h

theorem hostReset_of_running (s : State) (h : s.run = .running) : s.hostReset = .refused .resetWhileRunning := if_pos h

theorem hostReset_of_not_running (s : State) (h : s.run ≠ .running) : s.hostReset = .next s.afterReset := if_neg h

@[simp] theorem afterReset_run (s : State) : s.afterReset.run = .idle := rfl

/-- Settles O19: one equation of `execute`, `halt` or `reset` for each run state. -/
theorem runStateTransitions : Obligations.RunStateTransitions :=
  ⟨hostExecute_of_running, hostExecute_of_no_fault, fun s h hf => ⟨_, hostExecute_of_fault s h hf⟩,
    hostHalt_of_running, hostHalt_of_not_running, fun s h => ⟨_, hostReset_of_running s h⟩,
    fun s h => ⟨hostReset_of_not_running s h, afterReset_run s⟩⟩

/-! ## The reset values -/

/-- Settles O17: the rows of R37, each by its law of `resetWith`. -/
theorem resetValues : Obligations.ResetValues := fun p =>
  ⟨resetWith_general p, resetWith_SP p, resetWith_LR p, resetWith_pc p, resetWith_apsr p, resetWith_run p,
    resetWith_fault p, resetWith_SP Config.defaultParams⟩

end Sys2Proof.Machine
end

section
/-! PROOFS. Bits 27 to 0 of APSR take no part in a step (R25): every operation commutes with replacing them. Replacing
them by what they already are then shows that no step changes them. -/

namespace Sys2Proof.Machine

/-! ## Replacing bits 27 to 0 of APSR -/

/-- The state with `lo` in bits 27 to 0 of APSR. -/
def State.withApsrLow (s : State) (lo : BitVec 28) : State :=
  { s with apsr := (s.apsr.extractLsb' 28 4 ++ lo).setWidth 32 }

theorem sameButApsrLow_iff (s t : State) : sameButApsrLow s t ↔ ∃ lo, t = s.withApsrLow lo := Iff.rfl

theorem withApsrLow_getLsbD (s : State) (lo : BitVec 28) (i : Nat) :
    (s.withApsrLow lo).apsr.getLsbD i = if i < 28 then lo.getLsbD i else s.apsr.getLsbD i := by
  simp only [State.withApsrLow, BitVec.setWidth_eq, BitVec.getLsbD_append, BitVec.getLsbD_extractLsb']
  by_cases h : i < 28
  · simp [h]
  · by_cases h32 : i < 32
    · simp [h, show i - 28 < 4 by omega, show 28 + (i - 28) = i by omega]
    · simp [h, show ¬ i - 28 < 4 by omega, BitVec.getLsbD_of_ge _ _ (not_lt.mp h32)]

@[simp] theorem withApsrLow_low (s : State) (lo : BitVec 28) : (s.withApsrLow lo).apsr.extractLsb' 0 28 = lo := by
  apply BitVec.eq_of_getLsbD_eq
  intro i hi
  simp [withApsrLow_getLsbD, hi]

theorem withApsrLow_self (s : State) : s.withApsrLow (s.apsr.extractLsb' 0 28) = s := by
  have h : (s.withApsrLow (s.apsr.extractLsb' 0 28)).apsr = s.apsr := by
    apply BitVec.eq_of_getLsbD_eq
    intro i hi
    simp only [withApsrLow_getLsbD, BitVec.getLsbD_extractLsb']
    split <;> simp_all
  exact congrArg (fun w => { s with apsr := w }) h

/-! ## What does not see the replacement -/

section
variable (s : State) (lo : BitVec 28)

@[simp] theorem withApsrLow_run : (s.withApsrLow lo).run = s.run := rfl
@[simp] theorem withApsrLow_fault : (s.withApsrLow lo).fault = s.fault := rfl
@[simp] theorem withApsrLow_mem : (s.withApsrLow lo).mem = s.mem := rfl
@[simp] theorem withApsrLow_wrotePC : (s.withApsrLow lo).wrotePC = s.wrotePC := rfl
@[simp] theorem withApsrLow_params : (s.withApsrLow lo).params = s.params := rfl
@[simp] theorem withApsrLow_draws : (s.withApsrLow lo).draws = s.draws := rfl
@[simp] theorem withApsrLow_reg (q : RegNum) : (s.withApsrLow lo).reg q = s.reg q := rfl
@[simp] theorem withApsrLow_pc : (s.withApsrLow lo).pc = s.pc := rfl
@[simp] theorem withApsrLow_peek (x : Word) : (s.withApsrLow lo).peek x = s.peek x := rfl
@[simp] theorem withApsrLow_plain (x : Word) : (s.withApsrLow lo).plain x = s.plain x := rfl
@[simp] theorem withApsrLow_writable (x : Word) : (s.withApsrLow lo).writable x = s.writable x := rfl
@[simp] theorem withApsrLow_driven : (s.withApsrLow lo).driven = s.driven := rfl
@[simp] theorem withApsrLow_atHaltAddr : (s.withApsrLow lo).atHaltAddr = s.atHaltAddr := rfl
@[simp] theorem withApsrLow_flagN : (s.withApsrLow lo).flagN = s.flagN := withApsrLow_getLsbD s lo 31
@[simp] theorem withApsrLow_flagZ : (s.withApsrLow lo).flagZ = s.flagZ := withApsrLow_getLsbD s lo 30
@[simp] theorem withApsrLow_flagC : (s.withApsrLow lo).flagC = s.flagC := withApsrLow_getLsbD s lo 29
@[simp] theorem withApsrLow_flagV : (s.withApsrLow lo).flagV = s.flagV := withApsrLow_getLsbD s lo 28

@[simp] theorem withApsrLow_conditionPassed (c : Cond) :
    (s.withApsrLow lo).conditionPassed c = s.conditionPassed c := by
  cases c <;> simp [State.conditionPassed]

@[simp] theorem withApsrLow_accessFault (acc : Access) (w : Width) (a : Word) :
    (s.withApsrLow lo).accessFault acc w a = s.accessFault acc w a := accessFault_congr s _ acc w a rfl rfl

@[simp] theorem withApsrLow_undefinedFault (op : Opcode) :
    (s.withApsrLow lo).undefinedFault op = s.undefinedFault op := by
  cases op <;> rfl

@[simp] theorem withApsrLow_beforeFault (acc : Access) (as : List Word) :
    (s.withApsrLow lo).beforeFault acc as = s.beforeFault acc as := by
  induction as with
  | nil => rfl
  | cons a as ih => simp [State.beforeFault, ih]

/-! ## The updates commute with the replacement -/

@[simp] theorem setReg_withApsrLow (r : RegNum) (v : Word) :
    (s.withApsrLow lo).setReg r v = (s.setReg r v).withApsrLow lo := rfl
@[simp] theorem writePC_withApsrLow (v : Word) : (s.withApsrLow lo).writePC v = (s.writePC v).withApsrLow lo := rfl
@[simp] theorem nextDraw_withApsrLow : (s.withApsrLow lo).nextDraw = s.nextDraw.withApsrLow lo := rfl
@[simp] theorem poke_withApsrLow (a : Word) (b : Byte) :
    (s.withApsrLow lo).poke a b = (s.poke a b).withApsrLow lo := rfl
@[simp] theorem raise_withApsrLow (f : FaultRecord) : (s.withApsrLow lo).raise f = (s.raise f).withApsrLow lo := rfl
@[simp] theorem halt_withApsrLow : (s.withApsrLow lo).halt = s.halt.withApsrLow lo := rfl
@[simp] theorem beginCycle_withApsrLow : (s.withApsrLow lo).beginCycle = s.beginCycle.withApsrLow lo := rfl

@[simp] theorem setHigh_withApsrLow (r : RegNum) (v : Word) :
    (s.withApsrLow lo).setHigh r v = (s.setHigh r v).withApsrLow lo := by
  by_cases h : r = PC
  · simp [h, setHigh_pc]
  · simp [h, setHigh_of_ne]

/-- A flag write replaces the other four bits. -/
@[simp] theorem setNZCV_withApsrLow (n z c v : Bool) :
    (s.withApsrLow lo).setNZCV n z c v = (s.setNZCV n z c v).withApsrLow lo := by
  have h : ((s.withApsrLow lo).setNZCV n z c v).apsr = ((s.setNZCV n z c v).withApsrLow lo).apsr := by
    apply BitVec.eq_of_getLsbD_eq
    intro i hi
    rw [withApsrLow_getLsbD]
    simp only [State.setNZCV, withApsrLow_low, BitVec.getLsbD_setWidth, BitVec.getLsbD_append]
    by_cases h28 : i < 28 <;> simp [h28, hi]
  exact congrArg (fun w => { s with apsr := w }) h

@[simp] theorem branchIf_withApsrLow (c : Cond) (imm8 : BitVec 8) :
    (s.withApsrLow lo).branchIf c imm8 = (s.branchIf c imm8).withApsrLow lo := by
  simp only [State.branchIf, withApsrLow_conditionPassed]
  split <;> rfl

@[simp] theorem retire_withApsrLow (len : Nat) :
    (s.withApsrLow lo).retire len = (s.retire len).withApsrLow lo := by
  cases hf : s.fault with
  | some f => simp [State.retire, hf]
  | none =>
    cases hw : s.wrotePC with
    | false => simp [State.retire, hf, hw]
    | true =>
      simp only [State.retire, withApsrLow_fault, withApsrLow_wrotePC, hf, hw]
      rfl

/-! ## Reads -/

theorem readByte_withApsrLow (a : Word) :
    (s.withApsrLow lo).readByte a = ((s.readByte a).1, (s.readByte a).2.withApsrLow lo) := by
  cases hp : s.plain a with
  | false => simp [State.readByte, State.drawByte, hp]
  | true => cases hb : s.peek a <;> simp [State.readByte, State.drawByte, hp, hb]

theorem readBytes_withApsrLow (n : Nat) (a : Word) :
    State.readBytes n a (s.withApsrLow lo) =
      ((State.readBytes n a s).1, (State.readBytes n a s).2.withApsrLow lo) := by
  induction n generalizing a s with
  | zero => rfl
  | succ n ih => simp [State.readBytes, readByte_withApsrLow, ih]

theorem loadWords_withApsrLow (as : List Word) :
    State.loadWords as (s.withApsrLow lo) =
      ((State.loadWords as s).1, (State.loadWords as s).2.withApsrLow lo) := by
  induction as generalizing s with
  | nil => rfl
  | cons a as ih => simp [State.loadWords, readBytes_withApsrLow, ih]

theorem memRead_withApsrLow (acc : Access) (w : Width) (a : Word) :
    (s.withApsrLow lo).memRead acc w a = (s.memRead acc w a).map fun p => (p.1, p.2.withApsrLow lo) := by
  simp only [State.memRead, withApsrLow_accessFault, readBytes_withApsrLow]
  cases s.accessFault acc w a <;> rfl

@[simp] theorem load_withApsrLow (rt : LowReg) (w : Width) (e : LoadExtend) (ea : Word) :
    (s.withApsrLow lo).load rt w e ea = (s.load rt w e ea).withApsrLow lo := by
  simp only [State.load, memRead_withApsrLow]
  cases s.memRead .read w ea <;> rfl

theorem fetchHalf_withApsrLow (a : Word) :
    (s.withApsrLow lo).fetchHalf a = (s.fetchHalf a).map fun p => (p.1, p.2.withApsrLow lo) := by
  simp only [State.fetchHalf, memRead_withApsrLow]
  cases s.memRead .fetch .half a <;> rfl

theorem fetchOp_withApsrLow :
    (s.withApsrLow lo).fetchOp = (s.fetchOp.1.withApsrLow lo, s.fetchOp.2) := by
  simp only [State.fetchOp, withApsrLow_pc, fetchHalf_withApsrLow]
  cases s.fetchHalf s.pc with
  | error f => rfl
  | ok p =>
    simp only [Except.map, fetchHalf_withApsrLow]
    split
    · cases p.2.fetchHalf (s.pc + 2#32) <;> rfl
    · rfl

/-! ## Writes -/

theorem writeByte_withApsrLow (a : Word) (b : Byte) :
    (s.withApsrLow lo).writeByte a b = (s.writeByte a b).withApsrLow lo := by
  cases h : s.writable a <;> simp [State.writeByte, h]

@[simp] theorem writeBytes_withApsrLow (bs : List Byte) (a : Word) :
    State.writeBytes bs a (s.withApsrLow lo) = (State.writeBytes bs a s).withApsrLow lo := by
  induction bs generalizing a s with
  | nil => rfl
  | cons b bs ih => simp only [State.writeBytes, writeByte_withApsrLow, ih]

theorem memWrite_withApsrLow (w : Width) (a v : Word) :
    (s.withApsrLow lo).memWrite w a v = (s.memWrite w a v).map fun t => t.withApsrLow lo := by
  simp only [State.memWrite, withApsrLow_accessFault, writeBytes_withApsrLow]
  cases s.accessFault .write w a <;> rfl

@[simp] theorem store_withApsrLow (rt : LowReg) (w : Width) (ea : Word) :
    (s.withApsrLow lo).store rt w ea = (s.store rt w ea).withApsrLow lo := by
  simp only [State.store, lowReg_eq, withApsrLow_reg, memWrite_withApsrLow]
  cases s.memWrite w ea (s.reg (low rt)) <;> rfl

/-! ## Blocks of words -/

theorem storeWords_withApsrLow (l : List (Word × Word)) :
    State.storeWords l (s.withApsrLow lo) = (State.storeWords l s).withApsrLow lo := by
  induction l generalizing s with
  | nil => rfl
  | cons p l ih => simp only [State.storeWords, writeBytes_withApsrLow, ih]

theorem storeSome_withApsrLow (l : List (Word × Word)) :
    State.storeSome l (s.withApsrLow lo) = (State.storeSome l s).withApsrLow lo := by
  induction l generalizing s with
  | nil => rfl
  | cons p l ih =>
    simp only [State.storeSome, writeBytes_withApsrLow, ← ih]
    rfl

theorem setRegs_withApsrLow (l : List (RegNum × Word)) :
    State.setRegs l (s.withApsrLow lo) = (State.setRegs l s).withApsrLow lo := by
  induction l generalizing s with
  | nil => rfl
  | cons p l ih => simp only [State.setRegs, setReg_withApsrLow, ih]

theorem setSome_withApsrLow (l : List (RegNum × Word)) :
    State.setSome l (s.withApsrLow lo) = (State.setSome l s).withApsrLow lo := by
  induction l generalizing s with
  | nil => rfl
  | cons p l ih =>
    simp only [State.setSome, nextDraw_withApsrLow, setReg_withApsrLow, withApsrLow_draws, withApsrLow_reg]
    exact ih _

theorem push_withApsrLow (lr : Bool) (list : BitVec 8) :
    (s.withApsrLow lo).push lr list = (s.push lr list).withApsrLow lo := by
  have hbase : (s.withApsrLow lo).pushBase lr list = s.pushBase lr list := rfl
  have hwords : (s.withApsrLow lo).pushed lr list = s.pushed lr list := rfl
  simp only [State.push, hbase, hwords, withApsrLow_beforeFault, withApsrLow_pc, raise_withApsrLow,
    storeWords_withApsrLow, storeSome_withApsrLow, setReg_withApsrLow]
  split
  · rfl
  · rcases s.beforeFault .write (wordAddrs (transferCount lr list) (s.pushBase lr list)) with ⟨as, _ | f⟩ <;> rfl

theorem pop_withApsrLow (pc : Bool) (list : BitVec 8) :
    (s.withApsrLow lo).pop pc list = (s.pop pc list).withApsrLow lo := by
  simp only [State.pop, withApsrLow_reg, withApsrLow_beforeFault, withApsrLow_pc, raise_withApsrLow,
    loadWords_withApsrLow, setRegs_withApsrLow, setSome_withApsrLow, setReg_withApsrLow, writePC_withApsrLow]
  split
  · rfl
  · rcases s.beforeFault .read (wordAddrs (transferCount pc list) (s.reg SP)) with ⟨as, _ | f⟩
    · cases pc <;> rfl
    · rfl

/-! ## Results with flags -/

theorem writeAlu_withApsrLow (rd : LowReg) (r : AluResult) :
    (s.withApsrLow lo).writeAlu rd r = (s.writeAlu rd r).withApsrLow lo := by
  simp [State.writeAlu]

theorem setNZ_withApsrLow (r : Word) : (s.withApsrLow lo).setNZ r = (s.setNZ r).withApsrLow lo := by
  simp

theorem writeNZ_withApsrLow (rd : LowReg) (r : Word) :
    (s.withApsrLow lo).writeNZ rd r = (s.writeNZ rd r).withApsrLow lo := setNZ_withApsrLow (s.setLow rd r) lo r

theorem writeShift_withApsrLow (rd : LowReg) (x : Word) (kind : ShiftKind) (n : Nat) :
    (s.withApsrLow lo).writeShift rd x kind n = (s.writeShift rd x kind n).withApsrLow lo := by
  simp [State.writeShift]

/-! ## Instructions and steps -/

/-- An instruction completes with and without the replacement, and its outcomes differ by the replacement only. -/
theorem exec_withApsrLow (i : Instr) :
    ∃ t, exec i s = .next t ∧ exec i (s.withApsrLow lo) = .next (t.withApsrLow lo) := by
  cases i
  case addsReg | subsReg | addsImm3 | subsImm3 | addsImm8 | subsImm8 | rsbs =>
    exact ⟨_, rfl, congrArg Host.Outcome.next (writeAlu_withApsrLow s lo _ _)⟩
  case adcs | sbcs =>
    refine ⟨_, rfl, congrArg Host.Outcome.next ?_⟩
    rw [withApsrLow_flagC]
    exact writeAlu_withApsrLow s lo _ _
  case cmpImm8 | cmpReg | cmn | cmpHi =>
    exact ⟨_, rfl, congrArg Host.Outcome.next (setNZCV_withApsrLow s lo _ _ _ _)⟩
  case ands | eors | orrs | bics | mvns | movsImm8 | movsReg | muls =>
    exact ⟨_, rfl, congrArg Host.Outcome.next (writeNZ_withApsrLow s lo _ _)⟩
  case tst => exact ⟨_, rfl, congrArg Host.Outcome.next (setNZ_withApsrLow s lo _)⟩
  case lslsImm | lsrsImm | asrsImm | lslsReg | lsrsReg | asrsReg | rors =>
    exact ⟨_, rfl, congrArg Host.Outcome.next (writeShift_withApsrLow s lo _ _ _ _)⟩
  case addHi | movHi => exact ⟨_, rfl, congrArg Host.Outcome.next (setHigh_withApsrLow s lo _ _)⟩
  case adr | addRdSp | addSpImm | subSpImm | b | bl | bx | blx => exact ⟨_, rfl, rfl⟩
  case ldrImm | ldrbImm | ldrhImm | ldrReg | ldrbReg | ldrhReg | ldrsbReg | ldrshReg | ldrSp | ldrLit =>
    exact ⟨_, rfl, congrArg Host.Outcome.next (load_withApsrLow s lo _ _ _ _)⟩
  case strImm | strbImm | strhImm | strReg | strbReg | strhReg | strSp =>
    exact ⟨_, rfl, congrArg Host.Outcome.next (store_withApsrLow s lo _ _ _)⟩
  case push lr list => exact ⟨_, rfl, congrArg Host.Outcome.next (push_withApsrLow s lo lr list)⟩
  case pop pc list => exact ⟨_, rfl, congrArg Host.Outcome.next (pop_withApsrLow s lo pc list)⟩
  case beq | bne | bcs | bcc | bmi | bpl | bvs | bvc | bhi | bls | bge | blt | bgt | ble | bal =>
    exact ⟨_, rfl, congrArg Host.Outcome.next (branchIf_withApsrLow s lo _ _)⟩

theorem cycle_withApsrLow : ∃ t, cycle s = .next t ∧ cycle (s.withApsrLow lo) = .next (t.withApsrLow lo) := by
  simp only [cycle, beginCycle_withApsrLow, fetchOp_withApsrLow]
  obtain ⟨s1, f | op⟩ := s.beginCycle.fetchOp
  · exact ⟨_, rfl, rfl⟩
  · cases hdec : decode op with
    | error r => exact ⟨s1.raise (s1.undefinedFault op), by simp only [hdec], by simp [hdec]⟩
    | ok i =>
      obtain ⟨t, hs, hlow⟩ := exec_withApsrLow s1 lo i
      exact ⟨t.retire op.len, by simp only [hdec, hs], by simp [hdec, hlow]⟩

/-- The two runs of R25: a step from a state whose bits 27 to 0 of APSR are replaced does what the step from the state
itself does, with the same replacement. -/
theorem step_withApsrLow : ∃ t, step s = .next t ∧ step (s.withApsrLow lo) = .next (t.withApsrLow lo) := by
  cases hd : s.driven with
  | false => exact ⟨s, by simp [step, hd], by simp [step, hd]⟩
  | true =>
    cases ha : s.atHaltAddr with
    | true => exact ⟨s.halt, by simp [step, hd, ha], by simp [step, hd, ha]⟩
    | false => simpa [step, hd, ha] using cycle_withApsrLow s lo

end

theorem step_withApsrLow_eq (s t : State) (lo : BitVec 28) (h : step s = .next t) :
    step (s.withApsrLow lo) = .next (t.withApsrLow lo) := by
  obtain ⟨u, hu, hlow⟩ := step_withApsrLow s lo
  obtain rfl := Host.Outcome.next.inj (h.symm.trans hu)
  exact hlow

/-- A step from `s` is a step from `s` with its own low bits put in, so its outcome holds them too. -/
theorem step_apsrLowKept (s t : State) (h : step s = .next t) : apsrLowKept s t := by
  have hself := step_withApsrLow_eq s t (s.apsr.extractLsb' 0 28) h
  rw [withApsrLow_self, h] at hself
  rw [apsrLowKept, Host.Outcome.next.inj hself, withApsrLow_low]

theorem step_sameButApsrLow (s t s' t' : State) (hst : sameButApsrLow s t) (hs : step s = .next s')
    (ht : step t = .next t') : sameButApsrLow s' t' := by
  obtain ⟨lo, rfl⟩ := (sameButApsrLow_iff s t).mp hst
  exact (sameButApsrLow_iff s' t').mpr
    ⟨lo, Host.Outcome.next.inj (ht.symm.trans (step_withApsrLow_eq s s' lo hs))⟩

/-- Settles O53: a step commutes with replacing bits 27 to 0 of APSR. -/
theorem apsrLowBits : Obligations.ApsrLowBits := by
  refine ⟨fun p => ?_, step_apsrLowKept, step_sameButApsrLow⟩
  simp

end Sys2Proof.Machine
end

section
/-! PROOFS. The bytes of an access (R40 to R45): a write leaves each byte at its own address and nothing elsewhere, and a read
of held bytes answers their little-endian sum (R42). -/

namespace Sys2Proof.Machine

/-! ## The addresses of an access -/

@[simp] theorem byteAddr_zero (a : Word) : byteAddr a 0 = a := by simp [byteAddr]

theorem byteAddr_add (a : Word) (j k : Nat) : byteAddr (byteAddr a j) k = byteAddr a (j + k) := by
  simp [byteAddr, BitVec.ofNat_add, BitVec.add_assoc]

theorem byteAddr_succ (a : Word) (k : Nat) : byteAddr (a + 1#32) k = byteAddr a (k + 1) := by
  rw [Nat.add_comm]
  exact byteAddr_add a 1 k

theorem byteAddr_toNat (a : Word) (k : Nat) : (byteAddr a k).toNat = (a.toNat + k) % 2 ^ 32 := by
  simp [byteAddr]

theorem mapped_of_plain (s : State) (a : Word) (h : s.plain a = true) : s.mapped a = true := by
  unfold State.plain at h
  cases hr : s.region a with
  | none => simp [hr] at h
  | some r => simp [State.mapped, hr]

theorem plain_of_writable (s : State) (a : Word) (h : s.writable a = true) : s.plain a = true := by
  unfold State.writable at h
  cases hr : s.region a with
  | none => simp [hr] at h
  | some r =>
    rw [hr] at h
    simpa [State.plain, hr] using (Bool.and_eq_true_iff.mp h).2

/-- An access that is aligned and mapped raises no fault (R44, R45). -/
theorem accessFault_eq_none (s : State) (acc : Access) (w : Width) (addr : Word) (ha : addr.toNat % w.bytes = 0)
    (hm : ∀ k < w.bytes, s.mapped (byteAddr addr k) = true) : s.accessFault acc w addr = none := by
  have hall : s.allMapped w.bytes addr = true := (allMapped_iff s w.bytes addr).mpr hm
  simp [State.accessFault, ha, hall]

/-! ## What a write of bytes leaves -/

section
variable (bs : List Byte) (a x : Word) (s : State)

@[simp] theorem writeBytes_params : (State.writeBytes bs a s).params = s.params := by rw [writeBytes_eq]
@[simp] theorem writeBytes_plain : (State.writeBytes bs a s).plain x = s.plain x := by rw [writeBytes_eq]; rfl
@[simp] theorem writeBytes_writable : (State.writeBytes bs a s).writable x = s.writable x := by rw [writeBytes_eq]; rfl

@[simp] theorem writeByte_writable (b : Byte) : (s.writeByte a b).writable x = s.writable x := by rw [writeByte_eq]; rfl

/-- A write of bytes changes no byte outside its addresses (R45). -/
theorem peek_writeBytes_of_ne (h : ∀ k < bs.length, x ≠ byteAddr a k) :
    (State.writeBytes bs a s).peek x = s.peek x := by
  induction bs generalizing a s with
  | nil => rfl
  | cons b bs ih =>
    have hne : a ≠ x := by simpa using (h 0 (by simp)).symm
    rw [State.writeBytes, ih, peek_writeByte, if_neg (by simp [hne])]
    intro k hk
    rw [byteAddr_succ]
    exact h (k + 1) (by simpa using hk)

/-- A write of bytes changes no byte that a core write does not store: one of a read-only region (R52), of a device (R54) or
of no region. -/
theorem peek_writeBytes_of_not_writable (h : s.writable x = false) :
    (State.writeBytes bs a s).peek x = s.peek x := by
  induction bs generalizing a s with
  | nil => rfl
  | cons b bs ih => 
    rw [State.writeBytes, ih _ _ (by simpa using h), peek_writeByte, if_neg]
    rintro ⟨rfl, hw⟩
    simp [h] at hw

/-- A write of bytes whose addresses are not writable changes nothing (R52). -/
theorem writeBytes_of_not_writable (h : ∀ k < bs.length, s.writable (byteAddr a k) = false) :
    State.writeBytes bs a s = s := by
  induction bs generalizing a with
  | nil => rfl
  | cons b bs ih =>
    have h0 : s.writable a = false := by simpa using h 0 (by simp)
    rw [State.writeBytes, State.writeByte, if_neg (by simp [h0])]
    apply ih
    intro k hk
    rw [byteAddr_succ]
    exact h (k + 1) (by simpa using hk)

end

/-- A write of bytes leaves byte `k` at the address plus `k`, where that is writable (R45). The bytes do not overlap, since
they are no more than the address space holds. -/
theorem peek_writeBytes (bs : List Byte) (a : Word) (s : State) (k : Nat) (hk : k < bs.length)
    (hlen : bs.length ≤ 2 ^ 32) :
    (State.writeBytes bs a s).peek (byteAddr a k) = writtenByte s (byteAddr a k) bs[k] := by
  induction bs generalizing a s k with
  | nil => simp at hk
  | cons b bs ih =>
    rw [List.length_cons] at hk hlen
    cases k with
    | zero =>
      have hne : ∀ j < bs.length, byteAddr a 0 ≠ byteAddr (a + 1#32) j := by
        intro j hj heq
        have := congrArg BitVec.toNat heq
        rw [byteAddr_succ, byteAddr_toNat, byteAddr_toNat] at this
        omega
      rw [State.writeBytes, peek_writeBytes_of_ne _ _ _ _ hne, peek_writeByte]
      simp [writtenByte]
    | succ k =>
      have hne : a ≠ byteAddr a (k + 1) := by
        intro heq
        have := congrArg BitVec.toNat heq
        rw [byteAddr_toNat] at this
        omega
      rw [State.writeBytes, ← byteAddr_succ, ih _ _ _ (by omega) (by omega), byteAddr_succ]
      simp [writtenByte, peek_writeByte, hne]

theorem splitLE_length (n : Nat) (v : Word) : (splitLE n v).length = n := by
  induction n generalizing v with
  | zero => rfl
  | succ n ih => simp [splitLE, ih]

theorem byteOf_shift (v : Word) (k : Nat) : byteOf (v >>> 8) k = byteOf v (k + 1) := by
  apply BitVec.eq_of_getLsbD_eq
  intro i hi
  simp [byteOf, Nat.mul_add, Nat.add_comm, Nat.add_left_comm]

/-- Byte `k` of the decomposition is `v[8k+7:8k]` (R42). -/
theorem splitLE_getElem (n : Nat) (v : Word) (k : Nat) (hk : k < (splitLE n v).length) :
    (splitLE n v)[k] = byteOf v k := by
  induction n generalizing v k with
  | zero => simp [splitLE] at hk
  | succ n ih =>
    cases k with
    | zero => rfl
    | succ k =>
      simp only [splitLE, List.getElem_cons_succ]
      rw [ih, byteOf_shift]

/-- After a word is written to writable memory, memory holds it (R42, R45). -/
theorem holdsWord_of_memWrite (s t : State) (addr v : Word) (hw : ∀ k < 4, s.writable (byteAddr addr k) = true)
    (h : s.memWrite .word addr v = .ok t) : holdsWord t addr v := by
  intro k hk
  obtain ⟨-, rfl, -⟩ := memWrite_ok s t .word addr v h
  constructor
  · rw [writeBytes_plain]
    exact plain_of_writable s _ (hw k hk)
  · rw [peek_writeBytes _ _ _ k (by rwa [splitLE_length]) (by simp [splitLE_length, Width.bytes]),
      splitLE_getElem, writtenByte, if_pos (hw k hk)]

/-! ## What a read of held bytes answers -/

/-- A read of held bytes answers them, and takes no draw (R44). -/
theorem readBytes_held (n : Nat) (a : Word) (s : State) (b : Nat → Byte)
    (h : ∀ k < n, s.plain (byteAddr a k) = true ∧ s.peek (byteAddr a k) = some (b k)) :
    State.readBytes n a s = ((List.range n).map b, s) := by
  induction n generalizing a b with
  | zero => rfl
  | succ n ih =>
    obtain ⟨hplain, hpeek⟩ := h 0 (by omega)
    rw [byteAddr_zero] at hplain hpeek
    have htail := ih (a + 1#32) (fun k => b (k + 1)) fun k hk => by
      rw [byteAddr_succ]
      exact h (k + 1) (by omega)
    simp [State.readBytes, readByte_held s a _ hplain hpeek, htail, List.range_succ_eq_map, Function.comp_def]

/-- The composition is the sum of R42. -/
theorem composeLE_map_range (n : Nat) (b : Nat → Byte) :
    composeLE ((List.range n).map b) = ((List.range n).map fun k => (b k).toNat * 2 ^ (8 * k)).sum := by
  induction n generalizing b with
  | zero => rfl
  | succ n ih =>
    have hscale : ∀ k, (b (k + 1)).toNat * 2 ^ (8 * (k + 1)) = 256 * ((b (k + 1)).toNat * 2 ^ (8 * k)) := by
      intro k
      ring
    simp [List.range_succ_eq_map, Function.comp_def, composeLE, ih fun k => b (k + 1), hscale, List.sum_map_mul_left]

/-- A read of held bytes answers their little-endian sum and changes nothing (R42, R44). -/
theorem memRead_held (s : State) (acc : Access) (w : Width) (addr : Word) (b : Nat → Byte)
    (ha : addr.toNat % w.bytes = 0)
    (h : ∀ k < w.bytes, s.plain (byteAddr addr k) = true ∧ s.peek (byteAddr addr k) = some (b k)) :
    s.memRead acc w addr =
      .ok (BitVec.ofNat 32 ((List.range w.bytes).map fun k => (b k).toNat * 2 ^ (8 * k)).sum, s) := by
  have hnone := accessFault_eq_none s acc w addr ha fun k hk => mapped_of_plain s _ (h k hk).1
  simp [State.memRead, hnone, readBytes_held _ _ _ b h, composeLE_map_range]

/-- The sum of `n` bytes of a word from byte `j` up is its bits `8(j+n)-1` to `8j`. -/
theorem sum_byteOf (v : Word) (j n : Nat) :
    ((List.range n).map fun k => (byteOf v (j + k)).toNat * 2 ^ (8 * k)).sum =
      v.toNat / 2 ^ (8 * j) % 2 ^ (8 * n) := by
  induction n with
  | zero => simp [Nat.mod_one]
  | succ n ih =>
    have hbyte : (byteOf v (j + n)).toNat = v.toNat / 2 ^ (8 * j) / 2 ^ (8 * n) % 2 ^ 8 := by
      simp [byteOf, BitVec.extractLsb'_toNat, Nat.shiftRight_eq_div_pow, Nat.div_div_eq_div_mul, ← Nat.pow_add,
        Nat.mul_add]
    rw [List.sum_range_succ, ih, hbyte, Nat.mul_add, Nat.pow_add, Nat.mod_mul]
    ring

/-- The low `n` bytes of a word, cut out by a mask. -/
theorem ofNat_mod_eq_mask (v : Word) (n : Nat) (hn : n ≤ 4) :
    BitVec.ofNat 32 (v.toNat % 2 ^ (8 * n)) = v &&& BitVec.ofNat 32 (2 ^ (8 * n) - 1) := by
  have hpow : 2 ^ (8 * n) ≤ 2 ^ 32 := Nat.pow_le_pow_right (by decide) (by omega)
  have hpos : 0 < 2 ^ (8 * n) := Nat.two_pow_pos _
  apply BitVec.eq_of_toNat_eq
  rw [BitVec.toNat_ofNat, BitVec.toNat_and, BitVec.toNat_ofNat,
    Nat.mod_eq_of_lt ((Nat.mod_lt _ hpos).trans_le hpow),
    Nat.mod_eq_of_lt (show 2 ^ (8 * n) - 1 < 2 ^ 32 by omega), Nat.and_two_pow_sub_one_eq_mod]

/-- Where memory holds a word, a read inside it answers the bits of the word from that byte up, as many as its width has
(R42). -/
theorem memRead_of_holdsWord (s : State) (acc : Access) (w : Width) (addr v : Word) (j : Nat)
    (hv : holdsWord s addr v) (hj : j + w.bytes ≤ 4) (ha : (byteAddr addr j).toNat % w.bytes = 0) :
    s.memRead acc w (byteAddr addr j) =
      .ok ((v >>> (8 * j)) &&& BitVec.ofNat 32 (2 ^ (8 * w.bytes) - 1), s) := by
  have hbytes : ∀ k < w.bytes, s.plain (byteAddr (byteAddr addr j) k) = true ∧
      s.peek (byteAddr (byteAddr addr j) k) = some (byteOf v (j + k)) := by
    intro k hk
    rw [byteAddr_add]
    exact hv (j + k) (by omega)
  rw [memRead_held s acc w _ _ ha hbytes, sum_byteOf, ← Nat.shiftRight_eq_div_pow, ← BitVec.toNat_ushiftRight,
    ofNat_mod_eq_mask _ _ (by omega)]

/-- The mask of the `n` high bytes, shifted down, cuts nothing off. -/
theorem shift_and_mask_of_top (v : Word) (j n : Nat) (h : j + n = 4) :
    (v >>> (8 * j)) &&& BitVec.ofNat 32 (2 ^ (8 * n) - 1) = v >>> (8 * j) := by
  have hlt : (v >>> (8 * j)).toNat < 2 ^ (8 * n) := by
    rw [BitVec.toNat_ushiftRight, Nat.shiftRight_eq_div_pow, Nat.div_lt_iff_lt_mul (Nat.two_pow_pos _), ← Nat.pow_add,
      show 8 * n + 8 * j = 32 by omega]
    exact v.isLt
  rw [← ofNat_mod_eq_mask _ n (by omega), Nat.mod_eq_of_lt hlt, BitVec.ofNat_toNat, BitVec.setWidth_eq]

/-- Settles O25: the sum of held bytes, and the reads inside a word that memory holds once it is written. -/
theorem littleEndian : Obligations.LittleEndian := by
  refine ⟨memRead_held, fun s t addr v ha hw ht => ?_⟩
  have hread (w : Width) (j : Nat) := memRead_of_holdsWord t .read w addr v j (holdsWord_of_memWrite s t addr v hw ht)
  refine ⟨?_, ?_, ?_, fun k hk => ?_⟩
  · have h := hread .word 0 (by decide) (by rwa [byteAddr_zero])
    rwa [byteAddr_zero, shift_and_mask_of_top v 0 _ rfl] at h
  · have h := hread .half 0 (by decide) (by rw [byteAddr_zero, Width.bytes]; omega)
    rwa [byteAddr_zero] at h
  · have h := hread .half 2 (by decide) (by rw [byteAddr_toNat, Width.bytes]; omega)
    rwa [shift_and_mask_of_top v 2 _ rfl] at h
  · exact hread .byte k (by rw [Width.bytes]; omega) (Nat.mod_one _)

end Sys2Proof.Machine
end

section
/-! PROOFS. What a step leaves of memory (R52): a core write is dropped where the region is read-only, so that no instruction
changes a byte of one; the host's load writes it all the same. -/

namespace Sys2Proof.Machine

/-! ## What is not writable -/

theorem mapped_of_region (s : State) (a : Word) (r : Region) (h : s.region a = some r) : s.mapped a = true := by
  simp [State.mapped, h]

theorem not_writable_of_readonly (s : State) (a : Word) (r : Region) (h : s.region a = some r)
    (hr : r.readonly = true) : s.writable a = false := by
  simp [State.writable, h, hr]

/-- A core write whose bytes all lie in read-only regions answers the same state (R52). -/
theorem memWrite_readonly (s : State) (w : Width) (addr v : Word) (ha : addr.toNat % w.bytes = 0)
    (h : ∀ k < w.bytes, ∃ r, s.region (byteAddr addr k) = some r ∧ r.readonly = true) :
    s.memWrite w addr v = .ok s := by
  have hnone : s.accessFault .write w addr = none := accessFault_eq_none s _ w addr ha fun k hk => by
    obtain ⟨r, hr, -⟩ := h k hk
    exact mapped_of_region s _ r hr
  have hkept : State.writeBytes (splitLE w.bytes v) addr s = s := writeBytes_of_not_writable _ _ _ fun k hk => by
    obtain ⟨r, hr, hro⟩ := h k (by rwa [splitLE_length] at hk)
    exact not_writable_of_readonly s _ r hr hro
  simp [State.memWrite, hnone, hkept]

/-! ## What an instruction leaves of memory -/

theorem peek_of_mem_eq (s t : State) (x : Word) (h : t.mem = s.mem) : t.peek x = s.peek x := by
  rw [State.peek, h, State.peek]

theorem load_mem (s : State) (rt : LowReg) (w : Width) (e : LoadExtend) (ea : Word) : (s.load rt w e ea).mem = s.mem := by
  obtain ⟨f, -, h⟩ | ⟨v, s1, hread, h⟩ := load_cases s rt w e ea
  · rw [h, raise_mem]
  · obtain ⟨-, -, -, hs1⟩ := memRead_ok _ _ _ _ _ _ hread
    rw [h, setReg_mem, hs1]

theorem loadWords_mem (as vs : List Word) (s s1 : State) (h : State.loadWords as s = (vs, s1)) : s1.mem = s.mem := by
  have hs1 : s1 = (State.loadWords as s).2 := by rw [h]
  rw [hs1, loadWords_eq]

theorem setRegs_mem (l : List (RegNum × Word)) (s : State) : (State.setRegs l s).mem = s.mem := by rw [setRegs_eq]
theorem setSome_mem (l : List (RegNum × Word)) (s : State) : (State.setSome l s).mem = s.mem := by rw [setSome_eq]

theorem pop_mem (s : State) (pc : Bool) (list : BitVec 8) : (s.pop pc list).mem = s.mem := by
  obtain ⟨-, h⟩ | ⟨-, -, vs, s1, hload, h⟩ | ⟨-, ok, a, rest, f, -, -, -, vs, s1, hload, h⟩ := pop_cases s pc list
  · rw [h, raise_mem]
  · rw [h]
    cases pc <;> simp [setRegs_mem, loadWords_mem _ _ _ _ hload]
  · rw [h, raise_mem, setSome_mem, loadWords_mem _ _ _ _ hload]

theorem branchIf_mem (s : State) (c : Cond) (imm8 : BitVec 8) : (s.branchIf c imm8).mem = s.mem := by
  obtain ⟨-, h⟩ | ⟨-, h⟩ := branchIf_cases s c imm8 <;> simp [h]

theorem setHigh_mem (s : State) (r : RegNum) (v : Word) : (s.setHigh r v).mem = s.mem := by
  by_cases h : r = PC
  · rw [h, setHigh_pc, writePC_mem]
  · rw [setHigh_of_ne s r v h, setReg_mem]

theorem retire_mem (s : State) (len : Nat) : (s.retire len).mem = s.mem := by
  obtain ⟨-, h⟩ | ⟨-, -, h⟩ | ⟨-, -, h⟩ := retire_cases s len <;> simp [h]

/-- A fetch leaves memory and the map, so that what it leaves reads and stores where the state before it does. -/
theorem fetchOp_state (s s1 : State) (res : Except FaultRecord Opcode) (h : s.fetchOp = (s1, res)) :
    s1 = { s with draws := s1.draws } := by
  have heq := fetchOp_eq s
  rwa [h] at heq

/-- Only the stores and PUSH write memory. -/
theorem exec_mem (i : Instr) (s t : State) (hi : canWriteMemory i = false) (h : exec i s = .next t) : t.mem = s.mem := by
  cases i
  case strImm | strbImm | strhImm | strReg | strbReg | strhReg | strSp | push => cases hi
  case ldrImm | ldrbImm | ldrhImm | ldrReg | ldrbReg | ldrhReg | ldrsbReg | ldrshReg | ldrSp | ldrLit =>
    obtain rfl := Host.Outcome.next.inj h
    exact load_mem _ _ _ _ _
  case pop =>
    obtain rfl := Host.Outcome.next.inj h
    exact pop_mem _ _ _
  case beq | bne | bcs | bcc | bmi | bpl | bvs | bvc | bhi | bls | bge | blt | bgt | ble | bal =>
    obtain rfl := Host.Outcome.next.inj h
    exact branchIf_mem _ _ _
  case addHi | movHi =>
    obtain rfl := Host.Outcome.next.inj h
    exact setHigh_mem _ _ _
  all_goals
    obtain rfl := Host.Outcome.next.inj h
    rfl

/-! ## A byte that is not writable -/

section
variable (s : State) (x : Word) (hx : s.writable x = false)
include hx

theorem peek_store_of_not_writable (rt : LowReg) (w : Width) (ea : Word) : (s.store rt w ea).peek x = s.peek x := by
  obtain ⟨f, -, h⟩ | ⟨-, h⟩ := store_cases s rt w ea
  · rw [h, raise_peek]
  · rw [h, peek_writeBytes_of_not_writable _ _ _ _ hx]

theorem peek_storeWords_of_not_writable (l : List (Word × Word)) : (State.storeWords l s).peek x = s.peek x := by
  induction l generalizing s with
  | nil => rfl
  | cons p l ih =>
    rw [State.storeWords, ih _ (by rwa [writeBytes_writable]), peek_writeBytes_of_not_writable _ _ _ _ hx]

theorem peek_storeSome_of_not_writable (l : List (Word × Word)) : (State.storeSome l s).peek x = s.peek x := by
  induction l generalizing s with
  | nil => rfl
  | cons p l ih =>
    refine (ih _ ?_).trans ?_
    · exact hx
    show Memory.lookup (if _ then _ else _) _ = _
    split
    · exact peek_writeBytes_of_not_writable _ _ _ _ hx
    · rfl

theorem peek_push_of_not_writable (lr : Bool) (list : BitVec 8) : (s.push lr list).peek x = s.peek x := by
  obtain ⟨-, h⟩ | ⟨-, -, h⟩ | ⟨-, ok, a, rest, f, -, -, -, h⟩ := push_cases s lr list
  · rw [h, raise_peek]
  · rw [h, setReg_peek, peek_storeWords_of_not_writable _ _ hx]
  · rw [h, raise_peek, peek_storeSome_of_not_writable _ _ hx]

/-- No instruction changes a byte that a core write does not store (R52, R54). -/
theorem exec_peek_of_not_writable (i : Instr) (t : State) (h : exec i s = .next t) : t.peek x = s.peek x := by
  by_cases hi : canWriteMemory i = false
  · exact peek_of_mem_eq s t x (exec_mem i s t hi h)
  · cases i
    case strImm | strbImm | strhImm | strReg | strbReg | strhReg | strSp =>
      obtain rfl := Host.Outcome.next.inj h
      exact peek_store_of_not_writable s x hx _ _ _
    case push lr list =>
      obtain rfl := Host.Outcome.next.inj h
      exact peek_push_of_not_writable s x hx lr list
    all_goals exact absurd rfl hi

end

/-- No step changes a byte that a core write does not store (R52, R54). -/
theorem step_peek_of_not_writable (s t : State) (x : Word) (hx : s.writable x = false) (h : step s = .next t) :
    t.peek x = s.peek x := by
  have hnext {u : State} (hu : step s = .next u) : t = u := Host.Outcome.next.inj (h.symm.trans hu)
  obtain ⟨-, hs⟩ | ⟨-, -, hs⟩ | ⟨-, -, ⟨s1, f, hf, hs⟩ | ⟨s1, op, r, hf, -, hs⟩ | ⟨s1, op, i, hf, -, hs⟩⟩ := step_cases s
  · rw [hnext hs]
  · rw [hnext hs, halt_peek]
  · rw [hnext hs, raise_peek, fetchOp_state _ _ _ hf]
    rfl
  · rw [hnext hs, raise_peek, fetchOp_state _ _ _ hf]
    rfl
  · have hs1 := fetchOp_state _ _ _ hf
    have hx1 : s1.writable x = false := by rwa [hs1]
    obtain ⟨s2, hexec, -⟩ := exec_withApsrLow s1 0#28 i
    calc t.peek x
      _ = (s2.retire op.len).peek x := by rw [hnext (hs s2 hexec)]
      _ = s2.peek x := peek_of_mem_eq _ _ x (retire_mem s2 op.len)
      _ = s1.peek x := exec_peek_of_not_writable s1 x hx1 i s2 hexec
      _ = s.peek x := by rw [hs1]; rfl

/-! ## The host's load -/

/-- The host's load stores a byte of RAM or flash, read-only or not (R52, R292). -/
theorem loadByte_of_region (s : State) (a : Word) (b : Byte) (r : Region) (h : s.region a = some r)
    (hd : r.device = false) : s.loadByte a b = .ok (s.poke a b) := by
  simp [State.loadByte, h, hd]

/-- The region of the default map that covers the start of flash (R51, D12). -/
theorem regionAt_flashOrigin :
    regionAt Config.testMemmap Config.flashOrigin = some ⟨0x08000000#32, 0x10000, true, false⟩ := by decide

/-- Settles O26: what is read-only is not writable, and what is not writable no core write and no step changes. -/
theorem readOnlyRegions : Obligations.ReadOnlyRegions :=
  ⟨memWrite_readonly,
    fun s t a r hr hro => step_peek_of_not_writable s t a (not_writable_of_readonly s a r hr hro),
    ⟨_, regionAt_flashOrigin, rfl⟩,
    fun s a b r hr hd => ⟨_, loadByte_of_region s a b r hr hd, by rw [peek_poke, if_pos rfl]⟩⟩

end Sys2Proof.Machine
end

section
/-! PROOFS. The pattern engine (R62 to R67), bit by bit: which bits `create`, the mask and `setBits` have, and what `match` and
`getBits` read. Each lemma is about every pattern of at most 16 positions, so that an induction on the pattern proves it. -/

namespace Sys2Proof.Machine

/-! ## One bit of a word -/

theorem getLsbD_setBit {w : Nat} (v : BitVec w) (n k : Nat) (hn : n < w) :
    (setBit v n).getLsbD k = if k = n then true else v.getLsbD k := by
  rw [setBit, ← BitVec.twoPow_eq, BitVec.getLsbD_or, BitVec.getLsbD_twoPow]
  by_cases h : k = n
  · simp [h, hn]
  · simp [h, Ne.symm h]

theorem getLsbD_clearBit {w : Nat} (v : BitVec w) (n k : Nat) :
    (clearBit v n).getLsbD k = if k = n then false else v.getLsbD k := by
  rw [clearBit, ← BitVec.twoPow_eq, BitVec.getLsbD_and, BitVec.getLsbD_not, BitVec.getLsbD_twoPow]
  by_cases h : k = n
  · subst h
    by_cases hk : k < w <;> simp [hk]
  · by_cases hk : k < w
    · simp [h, hk, Ne.symm h]
    · simp [BitVec.getLsbD_of_ge v k (by omega)]

/-- Setting or clearing a bit, as a bit of the fill says, writes that bit and no other. -/
theorem getLsbD_setBit_or_clearBit {w : Nat} (v : BitVec w) (b : Bool) (n k : Nat) (hn : n < w) :
    (if b then setBit v n else clearBit v n).getLsbD k = if k = n then b else v.getLsbD k := by
  cases b
  · exact getLsbD_clearBit v n k
  · exact getLsbD_setBit v n k hn

/-! ## The positions of a pattern, by bit number -/

/-- The position of a pattern that stands for bit `k`, if there is one (R62). -/
def positionAt (p : Pattern) (k : Nat) : Option PatternBit := p.reverse[k]?

/-- The number of `X` positions to the right of the position for bit `k`: the place of that bit in a fill (R65). -/
def fieldRank (p : Pattern) (k : Nat) : Nat := fieldCount (p.drop (p.length - k))

@[simp] theorem positionAt_nil (k : Nat) : positionAt [] k = none := rfl

theorem positionAt_cons (x : PatternBit) (p : Pattern) (k : Nat) :
    positionAt (x :: p) k = if k = p.length then some x else positionAt p k := by
  simp only [positionAt, List.reverse_cons, List.getElem?_append, List.length_reverse]
  rcases Nat.lt_trichotomy k p.length with h | rfl | h
  · simp [h, Nat.ne_of_lt h]
  · simp
  · simp [show ¬ k < p.length by omega, show k ≠ p.length by omega, Nat.sub_ne_zero_of_lt h]

theorem positionAt_of_ge (p : Pattern) (k : Nat) (h : p.length ≤ k) : positionAt p k = none := by
  simp [positionAt, h]

theorem lt_length_of_positionAt (p : Pattern) (k : Nat) (x : PatternBit) (h : positionAt p k = some x) :
    k < p.length := by
  by_contra hk
  rw [positionAt_of_ge p k (by omega)] at h
  cases h

theorem positionAt_cons_eq_some (x y : PatternBit) (p : Pattern) (k : Nat) :
    positionAt (x :: p) k = some y ↔ (k = p.length ∧ x = y) ∨ positionAt p k = some y := by
  by_cases hk : k = p.length
  · simp [positionAt_cons, hk, positionAt_of_ge p p.length le_rfl]
  · simp [positionAt_cons, hk]

/-- Position `i` of a pattern of 16 stands for bit `15 - i` (R62). -/
theorem positionAt_of_valid (p : Pattern) (hp : validPattern p) (i : Nat) (hi : i < 16) :
    positionAt p (15 - i) = p[i]? := by
  rw [positionAt, List.getElem?_reverse (by omega), hp, show 16 - 1 - (15 - i) = i by omega]

/-- Every bit up to 15 has its position in a pattern of 16. -/
theorem getElem?_of_valid (p : Pattern) (hp : validPattern p) (k : Nat) (hk : k < 16) :
    p[15 - k]? = positionAt p k := by
  rw [← positionAt_of_valid p hp (15 - k) (by omega), show 15 - (15 - k) = k by omega]

theorem fieldRank_of_valid (p : Pattern) (hp : validPattern p) (i : Nat) (hi : i < 16) :
    fieldRank p (15 - i) = fieldCount (p.drop (i + 1)) := by
  rw [fieldRank, hp, show 16 - (15 - i) = i + 1 by omega]

theorem fieldRank_cons (x : PatternBit) (p : Pattern) (k : Nat) (hk : k ≤ p.length) :
    fieldRank (x :: p) k = fieldRank p k := by
  rw [fieldRank, List.length_cons, show p.length + 1 - k = p.length - k + 1 by omega, List.drop_succ_cons, fieldRank]

@[simp] theorem fieldRank_length (p : Pattern) : fieldRank p p.length = fieldCount p := by
  simp [fieldRank]

/-- A pattern has no more `X` positions than positions. -/
theorem fieldCount_le_length (p : Pattern) : fieldCount p ≤ p.length := by
  induction p with
  | nil => exact le_rfl
  | cons x p ih => cases x <;> simp only [fieldCount, List.length_cons] <;> omega

/-- The place of an `X` bit in a fill is below their number. -/
theorem fieldRank_lt_fieldCount (p : Pattern) (k : Nat) (h : positionAt p k = some .any) :
    fieldRank p k < fieldCount p := by
  induction p with
  | nil => cases h
  | cons x p ih =>
    have hk : k ≤ p.length := Nat.lt_succ_iff.mp (lt_length_of_positionAt _ _ _ h)
    rw [fieldRank_cons x p k hk]
    by_cases he : k = p.length
    · obtain rfl : x = .any := by simpa [positionAt_cons, he] using h
      simp [he, fieldCount]
    · have hlt := ih (by simpa [positionAt_cons, he] using h)
      cases x <;> simp only [fieldCount] <;> omega

/-! ## `match`, the mask and `create` -/

/-- `match` compares every fixed position with its bit (R63). -/
theorem matchPattern_iff (v : Halfword) (p : Pattern) :
    matchPattern v p = true ↔ ∀ k b, positionAt p k = some (.fixed b) → v.getLsbD k = b := by
  induction p with
  | nil => simp [matchPattern]
  | cons x p ih =>
    cases x with
    | any => simp [matchPattern, ih, positionAt_cons_eq_some]
    | fixed c =>
      rw [matchPattern, Bool.and_eq_true, beq_iff_eq, ih]
      constructor
      · rintro ⟨htop, hrest⟩ k b h
        obtain ⟨rfl, hcb⟩ | hb := (positionAt_cons_eq_some _ _ p k).mp h
        · exact htop.trans (PatternBit.fixed.inj hcb)
        · exact hrest k b hb
      · refine fun h => ⟨h p.length c ?_, fun k b hb => h k b ?_⟩
        · exact (positionAt_cons_eq_some _ _ p _).mpr (.inl ⟨rfl, rfl⟩)
        · exact (positionAt_cons_eq_some _ _ p k).mpr (.inr hb)

/-- The mask has a 1 at every fixed position and no other (R63). -/
theorem patternMask_getLsbD (p : Pattern) (hp : p.length ≤ 16) (k : Nat) :
    (patternMask p).getLsbD k = true ↔ ∃ b, positionAt p k = some (.fixed b) := by
  induction p with
  | nil => simp [patternMask]
  | cons x p ih =>
    rw [List.length_cons] at hp
    have hrest := ih (by omega)
    cases x with
    | any => simp [patternMask, hrest, positionAt_cons_eq_some]
    | fixed b => by_cases hk : k = p.length <;> simp [patternMask, getLsbD_setBit _ _ _ hp, hrest, positionAt_cons, hk]

/-- `create` has a 1 at every `1` position and no other (R64). -/
theorem create_getLsbD (p : Pattern) (hp : p.length ≤ 16) (k : Nat) :
    (create p).getLsbD k = true ↔ positionAt p k = some (.fixed true) := by
  induction p with
  | nil => simp [create]
  | cons x p ih =>
    rw [List.length_cons] at hp
    have hrest := ih (by omega)
    cases x with
    | any => simp [create, hrest, positionAt_cons_eq_some]
    | fixed b =>
      cases b with
      | false => simp [create, hrest, positionAt_cons_eq_some]
      | true => by_cases hk : k = p.length <;> simp [create, getLsbD_setBit _ _ _ hp, hrest, positionAt_cons, hk]

theorem matchPattern_create (p : Pattern) (hp : p.length ≤ 16) : matchPattern (create p) p = true := by
  refine (matchPattern_iff _ p).mpr fun k b h => ?_
  rw [Bool.eq_iff_iff, create_getLsbD p hp k, h]
  simp

/-- `match` is the comparison under the mask (R63). -/
theorem matchPattern_iff_mask (v : Halfword) (p : Pattern) (hp : p.length ≤ 16) :
    matchPattern v p = true ↔ v &&& patternMask p = create p := by
  have hcreate := (matchPattern_iff _ p).mp (matchPattern_create p hp)
  rw [matchPattern_iff]
  constructor
  · intro h
    apply BitVec.eq_of_getLsbD_eq
    intro k _
    rw [BitVec.getLsbD_and]
    by_cases hm : (patternMask p).getLsbD k = true
    · obtain ⟨b, hb⟩ := (patternMask_getLsbD p hp k).mp hm
      rw [hm, Bool.and_true, h k b hb, hcreate k b hb]
    · have hc : ¬ (create p).getLsbD k = true :=
        fun hc => hm ((patternMask_getLsbD p hp k).mpr ⟨true, (create_getLsbD p hp k).mp hc⟩)
      simp [hm, hc]
  · intro h k b hb
    have hm := (patternMask_getLsbD p hp k).mpr ⟨b, hb⟩
    calc v.getLsbD k
      _ = (v &&& patternMask p).getLsbD k := by rw [BitVec.getLsbD_and, hm, Bool.and_true]
      _ = b := by rw [h, hcreate k b hb]

/-! ## The catalog's masks -/

/-- The mask and match values of each row are those of its layout (R63, R73). -/
theorem catalog_mask_bits : ∀ r ∈ catalog, validPattern (layoutPattern r.layout) ∧
    r.mask = patternMask (layoutPattern r.layout) ∧ r.bits = create (layoutPattern r.layout) := by decide +kernel

theorem accepts_iff (r : CatalogRow) (h : Halfword) : r.accepts h = true ↔ h &&& r.mask = r.bits := beq_iff_eq

/-- A row accepts the halfwords that match its layout (R63, R73). -/
theorem accepts_eq_matchPattern (r : CatalogRow) (hr : r ∈ catalog) (h : Halfword) :
    r.accepts h = matchPattern h (layoutPattern r.layout) := by
  obtain ⟨hvalid, hmask, hbits⟩ := catalog_mask_bits r hr
  rw [Bool.eq_iff_iff, accepts_iff, matchPattern_iff_mask h _ hvalid.le, hmask, hbits]

/-! ## The statements about positions -/

theorem matchPattern_iff_positions (p : Pattern) (v : Halfword) (hp : validPattern p) :
    matchPattern v p = true ↔ ∀ i < 16, ∀ b, p[i]? = some (.fixed b) → v.getLsbD (15 - i) = b := by
  rw [matchPattern_iff]
  constructor
  · intro h i hi b hb
    exact h _ b ((positionAt_of_valid p hp i hi).trans hb)
  · intro h k b hb
    have hk : k < 16 := (lt_length_of_positionAt p k _ hb).trans_eq hp
    have hbit := h (15 - k) (by omega) b ((getElem?_of_valid p hp k hk).trans hb)
    rwa [show 15 - (15 - k) = k by omega] at hbit

/-- In a pattern, a position that is no field bit is a fixed one. -/
theorem exists_fixed_iff_ne_any (p : Pattern) (i : Nat) (hi : i < p.length) :
    (∃ b, p[i]? = some (.fixed b)) ↔ p[i]? ≠ some .any := by
  rw [List.getElem?_eq_getElem hi]
  cases p[i] <;> simp

theorem patternMask_position (p : Pattern) (hp : validPattern p) (i : Nat) (hi : i < 16) :
    (patternMask p).getLsbD (15 - i) = decide (p[i]? ≠ some .any) := by
  rw [Bool.eq_iff_iff, patternMask_getLsbD p hp.le, positionAt_of_valid p hp i hi, decide_eq_true_iff,
    exists_fixed_iff_ne_any p i (by omega)]

theorem create_position (p : Pattern) (hp : validPattern p) (i : Nat) (hi : i < 16) :
    (create p).getLsbD (15 - i) = decide (p[i]? = some (.fixed true)) := by
  rw [Bool.eq_iff_iff, create_getLsbD p hp.le, positionAt_of_valid p hp i hi, decide_eq_true_iff]

/-- Settles O5: the laws of the bits, and the mask and match values of the catalog's layouts. -/
theorem matchIsMaskAndBits : Obligations.MatchIsMaskAndBits :=
  ⟨fun p v hp => ⟨matchPattern_iff_positions p v hp, matchPattern_iff_mask v p hp.le, patternMask_position p hp,
    create_position p hp⟩, accepts_eq_matchPattern⟩

/-! ## `setBits` -/

/-- `setBits` replaces the `X` positions, each by its bit of the fill, and no other (R65). -/
theorem setBits_getLsbD (v : Halfword) (p : Pattern) (fill : Int) (hp : p.length ≤ 16) (k : Nat) :
    (setBits v p fill).getLsbD k =
      if positionAt p k = some .any then (BitVec.ofInt 16 fill).getLsbD (fieldRank p k) else v.getLsbD k := by
  induction p generalizing v with
  | nil => simp [setBits]
  | cons x p ih =>
    rw [List.length_cons] at hp
    have hrest (w : Halfword) := ih w (by omega)
    by_cases hany : positionAt p k = some .any
    · have hk : k < p.length := lt_length_of_positionAt p k _ hany
      cases x <;> simp [setBits, hrest, positionAt_cons, hany, hk.ne, fieldRank_cons _ p k hk.le]
    · by_cases hk : k = p.length
      · subst hk
        cases x <;> simp [setBits, hrest, positionAt_cons, hany, getLsbD_setBit_or_clearBit _ _ _ _ hp, fieldRank_cons]
      · cases x <;> simp [setBits, hrest, positionAt_cons, hany, hk, getLsbD_setBit_or_clearBit _ _ _ _ hp]

/-- The low `n` bits of a fill are its residue modulo `2^n` (R65). -/
theorem ofInt_toNat_mod (fill : Int) (n : Nat) (hn : n ≤ 16) :
    (BitVec.ofInt 16 fill).toNat % 2 ^ n = (fill % 2 ^ n).toNat := by
  have hdvd : (2 : Int) ^ n ∣ ((2 ^ 16 : Nat) : Int) := by exact_mod_cast pow_dvd_pow 2 hn
  have hnonneg : 0 ≤ fill % ((2 ^ 16 : Nat) : Int) := Int.emod_nonneg _ (by decide)
  zify
  rw [BitVec.toNat_ofInt, Int.toNat_of_nonneg hnonneg, Int.emod_emod_of_dvd _ hdvd,
    Int.toNat_of_nonneg (Int.emod_nonneg _ (by positivity))]

/-- A bit of the fill below the `n`-th depends on its residue modulo `2^n` only. -/
theorem ofInt_getLsbD_emod (fill : Int) (n r : Nat) (hn : n ≤ 16) (hr : r < n) :
    (BitVec.ofInt 16 (fill % 2 ^ n)).getLsbD r = (BitVec.ofInt 16 fill).getLsbD r := by
  have hbit (x : Int) : (BitVec.ofInt 16 x).getLsbD r = (x % 2 ^ n).toNat.testBit r := by
    rw [← ofInt_toNat_mod x n hn, Nat.testBit_mod_two_pow, decide_eq_true hr, Bool.true_and, BitVec.testBit_toNat]
  rw [hbit, hbit, Int.emod_emod_of_dvd _ dvd_rfl]

/-- A fill counts modulo `2^k` (R65). -/
theorem setBits_emod (v : Halfword) (p : Pattern) (fill : Int) (hp : p.length ≤ 16) :
    setBits v p (fill % 2 ^ fieldCount p) = setBits v p fill := by
  apply BitVec.eq_of_getLsbD_eq
  intro k _
  rw [setBits_getLsbD v p _ hp, setBits_getLsbD v p _ hp]
  split
  · rename_i hany
    exact ofInt_getLsbD_emod fill _ _ ((fieldCount_le_length p).trans hp) (fieldRank_lt_fieldCount p k hany)
  · rfl

/-! ## `getBits` -/

theorem getBits_lt (v : Halfword) (p : Pattern) : getBits v p < 2 ^ fieldCount p := by
  induction p with
  | nil => simp [getBits, fieldCount]
  | cons x p ih =>
    cases x with
    | fixed b => exact ih
    | any =>
      rw [getBits, fieldCount, Nat.pow_succ]
      have hbit := (v.getLsbD p.length).toNat_le
      nlinarith

/-- `getBits` reads each `X` bit at its place (R66). -/
theorem getBits_testBit (v : Halfword) (p : Pattern) (k : Nat) (h : positionAt p k = some .any) :
    (getBits v p).testBit (fieldRank p k) = v.getLsbD k := by
  induction p with
  | nil => cases h
  | cons x p ih =>
    have hk : k ≤ p.length := Nat.lt_succ_iff.mp (lt_length_of_positionAt _ _ _ h)
    rw [fieldRank_cons x p k hk]
    by_cases htop : k = p.length
    · obtain rfl : x = .any := by simpa [positionAt_cons, htop] using h
      rw [htop, fieldRank_length, getBits, Nat.mul_comm, Nat.testBit_two_pow_mul_add _ (getBits_lt v p)]
      cases v.getLsbD p.length <;> simp
    · have hany : positionAt p k = some .any := by simpa [positionAt_cons, htop] using h
      cases x with
      | fixed b => exact ih hany
      | any =>
        rw [getBits, Nat.mul_comm, Nat.testBit_two_pow_mul_add _ (getBits_lt v p),
          if_pos (fieldRank_lt_fieldCount p k hany), ih hany]

/-- `getBits` reads back the low bits of the fill that `setBits` wrote (R66). -/
theorem getBits_setBits (v : Halfword) (p : Pattern) (fill : Int) (hp : p.length ≤ 16) :
    getBits (setBits v p fill) p = (BitVec.ofInt 16 fill).toNat % 2 ^ fieldCount p := by
  induction p generalizing v with
  | nil => simp [getBits, fieldCount, Nat.mod_one]
  | cons x p ih =>
    rw [List.length_cons] at hp
    have hrest (w : Halfword) := ih w (by omega)
    cases x with
    | fixed b => exact hrest v
    | any =>
      have htop := setBits_getLsbD v (.any :: p) fill hp p.length
      simp only [positionAt_cons, if_true, fieldRank_cons _ p _ le_rfl, fieldRank_length] at htop
      rw [getBits, htop, setBits, hrest, fieldCount, Nat.mod_pow_succ, ← BitVec.testBit_toNat, Nat.toNat_testBit]
      ring

/-- `getBits` undoes `setBits` on a fill of the field's width (R66, R67). -/
theorem getBits_setBits_of_lt (v : Halfword) (p : Pattern) (fill : Int) (hp : p.length ≤ 16) (h0 : 0 ≤ fill)
    (hlt : fill < 2 ^ fieldCount p) : (getBits (setBits v p fill) p : Int) = fill := by
  rw [getBits_setBits v p fill hp, ofInt_toNat_mod fill _ ((fieldCount_le_length p).trans hp),
    Int.emod_eq_of_lt h0 hlt, Int.toNat_of_nonneg h0]

theorem setBits_position (v : Halfword) (p : Pattern) (fill : Int) (hp : validPattern p) (i : Nat) (hi : i < 16) :
    (setBits v p fill).getLsbD (15 - i) =
      if p[i]? = some .any then (BitVec.ofInt 16 fill).getLsbD (fieldCount (p.drop (i + 1))) else v.getLsbD (15 - i) := by
  rw [setBits_getLsbD v p fill hp.le, positionAt_of_valid p hp i hi, fieldRank_of_valid p hp i hi]

theorem getBits_position (v : Halfword) (p : Pattern) (hp : validPattern p) (i : Nat) (hi : i < 16)
    (hany : p[i]? = some .any) : (getBits v p).testBit (fieldCount (p.drop (i + 1))) = v.getLsbD (15 - i) := by
  rw [← fieldRank_of_valid p hp i hi]
  exact getBits_testBit v p _ ((positionAt_of_valid p hp i hi).trans hany)

/-! ## Templates -/

/-- The position that a character of a template stands for (R62). -/
def readPosition (c : Char) : Option PatternBit :=
  if c = '0' then some (.fixed false) else if c = '1' then some (.fixed true)
  else if c = 'X' then some .any else none

theorem readPosition_isSome (c : Char) : (readPosition c).isSome = true ↔ c = '0' ∨ c = '1' ∨ c = 'X' := by
  unfold readPosition
  split_ifs <;> simp_all

theorem parsePattern_eq (template : String) :
    parsePattern template = (template.toList.mapM readPosition).bind fun p => if p.length = 16 then some p else none := by
  rw [parsePattern]
  change (match template.toList.mapM readPosition with | some p => _ | none => _) = _
  cases template.toList.mapM readPosition <;> rfl

/-- Reading characters one by one fails exactly at a character that is no position, and otherwise keeps their number. -/
theorem mapM_readPosition (l : List Char) :
    ((∀ c ∈ l, (readPosition c).isSome = true) ∧ ∃ p, l.mapM readPosition = some p ∧ p.length = l.length) ∨
    ((∃ c ∈ l, (readPosition c).isSome = false) ∧ l.mapM readPosition = none) := by
  induction l with
  | nil => exact .inl ⟨by simp, [], rfl, rfl⟩
  | cons c l ih =>
    cases hc : readPosition c with
    | none => exact .inr ⟨⟨c, by simp [hc]⟩, by simp [List.mapM_cons, hc]⟩
    | some x =>
      obtain ⟨hall, p, hp, hlen⟩ | ⟨⟨d, hd, hbad⟩, hnone⟩ := ih
      · exact .inl ⟨by simpa [hc] using hall, x :: p, by simp [List.mapM_cons, hc, hp], by simp [hlen]⟩
      · exact .inr ⟨⟨d, by simp [hd], hbad⟩, by simp [List.mapM_cons, hc, hnone]⟩

/-- A template is a pattern exactly when it has 16 characters, each `0`, `1` or `X` (R62, R67). -/
theorem parsePattern_isSome (template : String) : (parsePattern template).isSome = true ↔
    template.toList.length = 16 ∧ ∀ c ∈ template.toList, c = '0' ∨ c = '1' ∨ c = 'X' := by
  simp only [parsePattern_eq, ← readPosition_isSome]
  obtain ⟨hall, p, hp, hlen⟩ | ⟨⟨c, hc, hbad⟩, hnone⟩ := mapM_readPosition template.toList
  · by_cases h : template.toList.length = 16
    · simp only [hp, Option.bind_some, hlen, h, if_true, Option.isSome_some, true_and]
      exact iff_of_true trivial hall
    · simp [hp, hlen, h]
  · rw [hnone]
    refine iff_of_false (by simp) fun h => ?_
    rw [h.2 c hc] at hbad
    cases hbad

/-- Settles O6: the bits of `create`, `setBits` and `getBits`, their laws, and the templates that are read. -/
theorem patternEngine : Obligations.PatternEngine :=
  ⟨fun p v fill hp =>
    ⟨create_position p hp, matchPattern_create p hp.le, setBits_position v p fill hp, (setBits_emod v p fill hp.le).symm,
      getBits_lt v p, getBits_position v p hp, getBits_setBits_of_lt (create p) p fill hp.le⟩,
    parsePattern_isSome⟩

end Sys2Proof.Machine
end

section
/-! PROOFS. The decoder (R68, R69, R74, R75): which row a halfword decodes by, what the rows accept taken together, and what
the cycle does with an opcode that no row accepts. -/

namespace Sys2Proof.Machine

/-! ## What the decoder answers -/

theorem decode_one_eq_ok (h : Halfword) (i : Instr) :
    decode (.one h) = .ok i ↔ ∃ r, catalog.find? (fun r => r.accepts h) = some r ∧ r.build h = i := by
  rw [decode]
  cases catalog.find? (fun r => r.accepts h) <;> simp

/-- A halfword is undefined exactly when no row accepts it (R75). -/
theorem decode_one_eq_error (h : Halfword) :
    (∃ e, decode (.one h) = .error e) ↔ ¬ ∃ r ∈ catalog, r.accepts h = true := by
  rw [decode]
  cases hfind : catalog.find? (fun r => r.accepts h) with
  | none => simpa using hfind
  | some r =>
    have haccepts := List.find?_some hfind
    simpa using ⟨r, List.mem_of_find?_eq_some hfind, haccepts⟩

/-- The first row that accepts: it stands at some place, and no row before that place accepts (R74). -/
theorem find?_eq_some_iff_first {α : Type} (l : List α) (p : α → Bool) (x : α) :
    l.find? p = some x ↔
      ∃ k : Nat, l[k]? = some x ∧ p x = true ∧ ∀ j < k, ∀ y, l[j]? = some y → p y = false := by
  rw [List.find?_eq_some_iff_getElem]
  constructor
  · rintro ⟨hx, k, hk, rfl, hbefore⟩
    refine ⟨k, List.getElem?_eq_getElem hk, hx, fun j hj y hy => ?_⟩
    obtain ⟨hjl, rfl⟩ := List.getElem?_eq_some_iff.mp hy
    simpa using hbefore j hj
  · rintro ⟨k, hk, hx, hbefore⟩
    obtain ⟨hkl, rfl⟩ := List.getElem?_eq_some_iff.mp hk
    exact ⟨hx, k, hkl, rfl, fun j hj => by simp [hbefore j hj _ (List.getElem?_eq_getElem (hj.trans hkl))]⟩

/-- Decoding takes the first row that accepts (R74). -/
theorem decode_one_eq_ok_iff_first (h : Halfword) (i : Instr) : decode (.one h) = .ok i ↔
    ∃ (k : Nat) (r : CatalogRow), catalog[k]? = some r ∧ r.accepts h = true ∧ i = r.build h ∧
      ∀ j < k, ∀ q : CatalogRow, catalog[j]? = some q → q.accepts h = false := by
  simp only [decode_one_eq_ok, find?_eq_some_iff_first]
  constructor
  · rintro ⟨r, ⟨k, hk, hr, hbefore⟩, rfl⟩
    exact ⟨k, r, hk, hr, rfl, hbefore⟩
  · rintro ⟨k, r, hk, hr, rfl, hbefore⟩
    exact ⟨r, ⟨k, hk, hr, hbefore⟩, rfl⟩

/-! ## Masks of high bits -/

/-- Cutting off the low `k` bits leaves the multiple of `2^k` below. -/
theorem and_highMask_toNat (h : Halfword) (k : Nat) :
    (h &&& (BitVec.allOnes 16 <<< k)).toNat = h.toNat / 2 ^ k * 2 ^ k := by
  have hle : h.toNat / 2 ^ k * 2 ^ k ≤ h.toNat := Nat.div_mul_le_self _ _
  rw [← BitVec.shiftLeft_ushiftRight, BitVec.toNat_shiftLeft, BitVec.toNat_ushiftRight, Nat.shiftRight_eq_div_pow,
    Nat.shiftLeft_eq, Nat.mod_eq_of_lt (hle.trans_lt h.isLt)]

/-- Under a mask of the bits from `k` up, a halfword compares equal to a multiple of `2^k` exactly when it lies in the block
of `2^k` halfwords that starts there. -/
theorem and_highMask_eq_iff (h b : Halfword) (k : Nat) (hb : b.toNat % 2 ^ k = 0) :
    h &&& (BitVec.allOnes 16 <<< k) = b ↔ b.toNat ≤ h.toNat ∧ h.toNat < b.toNat + 2 ^ k := by
  rw [← BitVec.toNat_inj, and_highMask_toNat]
  have hpos : 0 < 2 ^ k := Nat.two_pow_pos k
  obtain ⟨q, hq⟩ := Nat.dvd_of_mod_eq_zero hb
  rw [hq, Nat.mul_comm, Nat.mul_right_inj hpos.ne', Nat.div_eq_iff hpos, Nat.mul_comm]
  omega

/-- The first five bits of a halfword, compared under the mask `0xF800` or read as a number (R68, R69). -/
theorem and_topFive_eq_iff (h : Halfword) (n : Nat) (hn : n < 32) :
    h &&& 0xF800#16 = BitVec.ofNat 16 (n * 2 ^ 11) ↔ h.toNat / 2 ^ 11 = n := by
  have hmod : (BitVec.ofNat 16 (n * 2 ^ 11)).toNat = n * 2 ^ 11 := by
    rw [BitVec.toNat_ofNat]
    omega
  rw [show 0xF800#16 = BitVec.allOnes 16 <<< 11 by decide, ← BitVec.toNat_inj, and_highMask_toNat, hmod]
  omega

theorem startsPair_iff (h : Halfword) : startsPair h = true ↔ h.toNat / 2 ^ 11 = 0b11110 := by
  have hlt := h.isLt
  rw [startsPair, beq_iff_eq, ← BitVec.toNat_inj, BitVec.extractLsb'_toNat, Nat.shiftRight_eq_div_pow]
  show _ % 2 ^ 5 = 30 ↔ _
  omega

/-- BL is accepted when both halfwords start as its layout says (R68, R73). -/
theorem acceptsBl_iff (h1 h2 : Halfword) :
    acceptsBl h1 h2 = true ↔ h1.toNat / 2 ^ 11 = 0b11110 ∧ h2.toNat / 2 ^ 11 = 0b11111 := by
  rw [acceptsBl, Bool.and_eq_true, beq_iff_eq, beq_iff_eq]
  exact and_congr (and_topFive_eq_iff h1 0b11110 (by decide)) (and_topFive_eq_iff h2 0b11111 (by decide))

theorem decode_two_eq_ok (h1 h2 : Halfword) : (∃ i, decode (.two h1 h2) = .ok i) ↔ acceptsBl h1 h2 = true := by
  rw [decode]
  cases acceptsBl h1 h2 <;> cases startsPair h1 <;> simp

/-- A pair is undefined exactly when BL does not accept it (R75). -/
theorem decode_two_eq_error (h1 h2 : Halfword) :
    (∃ e, decode (.two h1 h2) = .error e) ↔ acceptsBl h1 h2 = false := by
  rw [decode]
  cases acceptsBl h1 h2 <;> cases startsPair h1 <;> simp

/-! ## The overlap of the rows -/

/-- Whether two rows agree on the bits that both fix, so that some halfword is accepted by both. -/
def rowsOverlap (q r : CatalogRow) : Bool := q.bits &&& r.mask == r.bits &&& q.mask

theorem rowsOverlap_of_accepts (q r : CatalogRow) (h : Halfword) (hq : q.accepts h = true) (hr : r.accepts h = true) :
    rowsOverlap q r = true := by
  rw [accepts_iff] at hq hr
  rw [rowsOverlap, beq_iff_eq]
  calc q.bits &&& r.mask
    _ = h &&& q.mask &&& r.mask := by rw [hq]
    _ = h &&& r.mask &&& q.mask := by rw [BitVec.and_assoc, BitVec.and_comm q.mask, BitVec.and_assoc]
    _ = r.bits &&& q.mask := by rw [hr]

/-- Only rows 1 and 2 of the catalog, at places 0 and 1, overlap (R74). -/
theorem catalog_pairwise_overlap :
    catalog.zipIdx.Pairwise fun q r => rowsOverlap q.1 r.1 = true → q.2 = 0 ∧ r.2 = 1 := by decide +kernel

theorem places_of_overlap (j k : Nat) (hj : j < catalog.length) (hk : k < catalog.length) (hjk : j < k)
    (ho : rowsOverlap catalog[j] catalog[k] = true) : j = 0 ∧ k = 1 := by
  have hpair := List.pairwise_iff_getElem.mp catalog_pairwise_overlap j k (by simpa using hj) (by simpa using hk) hjk
  simpa [ho] using hpair

/-- A left shift by 0 is a move: it keeps C (R167, R180, R184). -/
theorem execLslsImm_zero (rd rm : LowReg) (s : State) : exec (.lslsImm rd rm 0#5) s = exec (.movsReg rd rm) s := rfl

/-- What row 1 accepts has 0 in the field `imm5` of row 2. -/
theorem imm5_of_movsReg (h : Halfword) (hh : h &&& 0xFFC0#16 = 0x0000#16) : field h 6 5 = 0#5 := by
  have hlt : h.toNat < 2 ^ 6 := by
    rw [show 0xFFC0#16 = BitVec.allOnes 16 <<< 6 by decide, and_highMask_eq_iff h _ 6 (by decide)] at hh
    simpa using hh.2
  apply BitVec.eq_of_toNat_eq
  rw [BitVec.extractLsb'_toNat, Nat.shiftRight_eq_div_pow, Nat.div_eq_of_lt hlt]
  rfl

/-- Settles O7: the first row that accepts decodes, and only rows 1 and 2 overlap, where both move the register. -/
theorem decodeOrder : Obligations.DecodeOrder := by
  refine ⟨decode_one_eq_ok_iff_first, fun h1 h2 => (decode_two_eq_ok h1 h2).trans (acceptsBl_iff h1 h2), ?_⟩
  intro j k q r h hjk hj hk hq hr
  obtain ⟨hjl, rfl⟩ := List.getElem?_eq_some_iff.mp hj
  obtain ⟨hkl, rfl⟩ := List.getElem?_eq_some_iff.mp hk
  obtain ⟨rfl, rfl⟩ := places_of_overlap j k hjl hkl hjk (rowsOverlap_of_accepts _ _ h hq hr)
  have himm : field h 6 5 = 0#5 := imm5_of_movsReg h ((accepts_iff _ h).mp hq)
  refine ⟨rfl, rfl, himm, fun s => ?_⟩
  show exec (.movsReg (field h 0 3) (field h 3 3)) s = exec (.lslsImm (field h 0 3) (field h 3 3) (field h 6 5)) s
  rw [himm, execLslsImm_zero]

/-! ## What the rows accept, taken together -/

/-- The number of bits that a row leaves free: the field bits of its layout (R70, R71). -/
def freeBits (r : CatalogRow) : Nat := fieldCount (layoutPattern r.layout)

/-- Whether rows that fix high bits only accept the halfwords from `a` up to `b`, each row the block after the one before. -/
def tile : List CatalogRow → Nat → Nat → Bool
  | [], a, b => a == b
  | r :: rs, a, b =>
    r.mask == BitVec.allOnes 16 <<< freeBits r && r.bits.toNat % 2 ^ freeBits r == 0 && r.bits.toNat == a &&
      tile rs (a + 2 ^ freeBits r) b

theorem le_of_tile (rs : List CatalogRow) (a b : Nat) (ht : tile rs a b = true) : a ≤ b := by
  induction rs generalizing a with
  | nil => exact (beq_iff_eq.mp ht).le
  | cons r rs ih =>
    simp only [tile, Bool.and_eq_true] at ht
    exact (Nat.le_add_right _ _).trans (ih _ ht.2)

/-- Rows that tile an interval accept the halfwords of it and no other. -/
theorem exists_accepts_of_tile (rs : List CatalogRow) (a b : Nat) (ht : tile rs a b = true) (h : Halfword) :
    (∃ r ∈ rs, r.accepts h = true) ↔ a ≤ h.toNat ∧ h.toNat < b := by
  induction rs generalizing a with
  | nil =>
    obtain rfl := beq_iff_eq.mp ht
    simp
  | cons r rs ih =>
    simp only [tile, Bool.and_eq_true, beq_iff_eq] at ht
    obtain ⟨⟨⟨hmask, hbits⟩, rfl⟩, hrest⟩ := ht
    have hle := le_of_tile rs _ b hrest
    rw [List.exists_mem_cons_iff, accepts_iff, hmask, and_highMask_eq_iff h _ _ hbits, ih _ hrest]
    omega

/-- The `n` rows of the catalog after the first `k`. -/
def rows (k n : Nat) : List CatalogRow := (catalog.drop k).take n

/-- The catalog, cut where the rows leave a gap, and around BX and BLX, which fix low bits too. -/
theorem catalog_eq_rows :
    catalog = rows 0 1 ++ rows 1 30 ++ rows 31 2 ++ rows 33 21 ++ rows 54 1 ++ rows 55 1 ++ rows 56 15 ++ rows 71 1 := rfl

/-- A comparison under a mask of two parts is one under each part. -/
theorem and_or_mask_eq_iff (h m n c : Halfword) (hc : c &&& (m ||| n) = c) :
    h &&& (m ||| n) = c ↔ h &&& m = c &&& m ∧ h &&& n = c &&& n := by
  have hpart (x p q : Halfword) : x &&& (p ||| q) &&& p = x &&& p := by
    ext i
    cases hi : p[i] <;> simp [hi]
  constructor
  · rintro rfl
    exact ⟨(hpart h m n).symm, by rw [BitVec.or_comm, hpart]⟩
  · rintro ⟨hm, hn⟩
    rw [BitVec.and_or_distrib_left, hm, hn, ← BitVec.and_or_distrib_left, hc]

/-- The mask of BX and BLX fixes the high nine bits and bits 2:0 (R247, R248). -/
theorem and_branchExchangeMask_eq_iff (h c : Halfword) (hc : c.toNat % 2 ^ 7 = 0) :
    h &&& 0xFF87#16 = c ↔ (c.toNat ≤ h.toNat ∧ h.toNat < c.toNat + 2 ^ 7) ∧ h.toNat % 8 = 0 := by
  have hhigh : c &&& (BitVec.allOnes 16 <<< 7) = c := by
    rw [and_highMask_eq_iff c c 7 hc]
    omega
  have hlow (x : Halfword) : (x &&& 7#16).toNat = x.toNat % 8 := Nat.and_two_pow_sub_one_eq_mod x.toNat 3
  have hlow0 : c &&& 7#16 = 0#16 := by
    rw [← BitVec.toNat_inj, hlow]
    simp only [BitVec.toNat_ofNat]
    omega
  rw [show 0xFF87#16 = (BitVec.allOnes 16 <<< 7) ||| 7#16 by decide, and_or_mask_eq_iff, hhigh, hlow0,
    and_highMask_eq_iff h c 7 hc, ← BitVec.toNat_inj, hlow]
  · rfl
  · rw [BitVec.and_or_distrib_left, hhigh, hlow0, BitVec.or_zero]

/-- BX and BLX accept the halfwords from 0x4700 to 0x47FF with bits 2:0 clear (R75, R247, R248). -/
theorem exists_accepts_branchExchange (h : Halfword) :
    (∃ r ∈ rows 31 2, r.accepts h = true) ↔ (0x4700 ≤ h.toNat ∧ h.toNat < 0x4800) ∧ h.toNat % 8 = 0 := by
  have hrows : (∃ r ∈ rows 31 2, r.accepts h = true) ↔ h &&& 0xFF87#16 = 0x4700#16 ∨ h &&& 0xFF87#16 = 0x4780#16 := by
    change (∃ r ∈ [catalog[31], catalog[32]], r.accepts h = true) ↔ _
    simp only [List.exists_mem_cons_iff, List.not_mem_nil, false_and, exists_false, or_false, accepts_iff]
    rfl
  rw [hrows, and_branchExchangeMask_eq_iff h _ (by decide), and_branchExchangeMask_eq_iff h _ (by decide)]
  simp only [BitVec.toNat_ofNat]
  omega

/-- The halfwords that some row accepts. -/
theorem exists_accepts_iff (h : Halfword) : (∃ r ∈ catalog, r.accepts h = true) ↔
    h.toNat < 0x4700 ∨ ((0x4700 ≤ h.toNat ∧ h.toNat < 0x4800) ∧ h.toNat % 8 = 0) ∨
    (0x4800 ≤ h.toNat ∧ h.toNat < 0xB100) ∨ (0xB400 ≤ h.toNat ∧ h.toNat < 0xB600) ∨
    (0xBC00 ≤ h.toNat ∧ h.toNat < 0xBE00) ∨ (0xD000 ≤ h.toNat ∧ h.toNat < 0xDF00) ∨
    (0xE000 ≤ h.toNat ∧ h.toNat < 0xE800) := by
  have hmovs := exists_accepts_of_tile (rows 0 1) 0 0x40 (by decide +kernel) h
  have hlow := exists_accepts_of_tile (rows 1 30) 0 0x4700 (by decide +kernel) h
  have hload := exists_accepts_of_tile (rows 33 21) 0x4800 0xB100 (by decide +kernel) h
  have hpush := exists_accepts_of_tile (rows 54 1) 0xB400 0xB600 (by decide +kernel) h
  have hpop := exists_accepts_of_tile (rows 55 1) 0xBC00 0xBE00 (by decide +kernel) h
  have hcond := exists_accepts_of_tile (rows 56 15) 0xD000 0xDF00 (by decide +kernel) h
  have hb := exists_accepts_of_tile (rows 71 1) 0xE000 0xE800 (by decide +kernel) h
  simp only [catalog_eq_rows, List.mem_append, or_and_right, exists_or, hmovs, hlow, exists_accepts_branchExchange, hload,
    hpush, hpop, hcond, hb]
  omega

/-! ## The undefined encodings -/

/-- R75's list of the first halfwords that start no pair and match no row. -/
theorem decode_one_undefined (h : Halfword) (hp : startsPair h = false) :
    (∃ e, decode (.one h) = .error e) ↔
      (0x4700 ≤ h.toNat ∧ h.toNat ≤ 0x47FF ∧ h.toNat % 8 ≠ 0) ∨ (0xB100 ≤ h.toNat ∧ h.toNat ≤ 0xB3FF) ∨
      (0xB600 ≤ h.toNat ∧ h.toNat ≤ 0xBBFF) ∨ (0xBE00 ≤ h.toNat ∧ h.toNat ≤ 0xBFFF) ∨
      (0xC000 ≤ h.toNat ∧ h.toNat ≤ 0xCFFF) ∨ (0xDF00 ≤ h.toNat ∧ h.toNat ≤ 0xDFFF) ∨
      (0xE800 ≤ h.toNat ∧ h.toNat ≤ 0xEFFF) ∨ (0xF800 ≤ h.toNat ∧ h.toNat ≤ 0xFFFF) := by
  have hlt := h.isLt
  have hpair : h.toNat / 2 ^ 11 ≠ 0b11110 := by
    rw [Ne, ← startsPair_iff, hp]
    decide
  rw [decode_one_eq_error, exists_accepts_iff]
  omega

theorem decode_two_undefined (h1 h2 : Halfword) (hp : startsPair h1 = true) :
    (∃ e, decode (.two h1 h2) = .error e) ↔ h2.toNat / 2 ^ 11 ≠ 0b11111 := by
  rw [decode_two_eq_error, Bool.eq_false_iff, Ne, acceptsBl_iff, ← startsPair_iff, hp]
  simp

/-- A step that fetches an undefined opcode takes its fault, and nothing else (R75, R261, R264). -/
theorem step_of_undefined (s s1 : State) (op : Opcode) (r : Reject) (hd : s.driven = true)
    (hh : s.atHaltAddr = false) (hf : s.beginCycle.fetchOp = (s1, .ok op)) (hdec : decode op = .error r) :
    step s = .next (s1.raise (s1.undefinedFault op)) := by
  simp [step, cycle, hd, hh, hf, hdec]

/-- Settles O4: the gaps between the rows, BL's second halfword, and the fault of the cycle. -/
theorem undefinedEncodings : Obligations.UndefinedEncodings := by
  refine ⟨decode_one_undefined, decode_two_undefined, ?_⟩
  rintro s s1 op hd hh hf ⟨r, hdec⟩
  have hs1 := fetchOp_state _ _ _ hf
  refine ⟨_, step_of_undefined s s1 op r hd hh hf hdec, rfl, ?_, ?_⟩
  · rw [raise_fault, hs1]
    cases op <;> rfl
  · rw [hs1]
    exact ⟨rfl, rfl, rfl, rfl⟩

end Sys2Proof.Machine
end

section
/-! PROOFS. The words of an instruction (R73): a halfword decodes by the row that accepts it, and one lemma for each layout of
fields among the arithmetic instructions and MOV between any registers. -/

namespace Sys2Proof.Machine

/-! ## Fields of a packed halfword -/

theorem pack_append_assoc {n m k : Nat} (x : BitVec n) (y : BitVec m) (z : BitVec k) :
    pack (x ++ y ++ z) = pack (x ++ (y ++ z)) := by
  rw [BitVec.append_assoc, pack, BitVec.setWidth_cast]

/-- The mask of a layout sees its leading bits only. -/
theorem pack_and_highMask {n m : Nat} (op : BitVec n) (rest : BitVec m) :
    pack (op ++ rest) &&& (BitVec.allOnes 16 <<< m) = pack (op ++ 0#m) := by
  apply BitVec.eq_of_getLsbD_eq
  intro i hi
  simp only [pack, BitVec.getLsbD_and, BitVec.getLsbD_setWidth, BitVec.getLsbD_append, BitVec.getLsbD_shiftLeft,
    BitVec.getLsbD_allOnes, BitVec.getLsbD_zero]
  by_cases h : i < m
  · simp [h]
  · simp [h, hi, show i - m < 16 by omega]

/-- The last field of a halfword. -/
theorem field_pack_last {n len : Nat} (x : BitVec n) (y : BitVec len) (h : len ≤ 16) :
    field (pack (x ++ y)) 0 len = y := by
  rw [field, BitVec.extractLsb'_setWidth_of_le (by omega), BitVec.extractLsb'_append_eq_right]

/-- The field of a halfword that `lo` bits follow. -/
theorem field_pack_middle {n len lo : Nat} (x : BitVec n) (y : BitVec len) (z : BitVec lo) (h : lo + len ≤ 16) :
    field (pack (x ++ y ++ z)) lo len = y := by
  rw [field, BitVec.extractLsb'_setWidth_of_le h, BitVec.extractLsb'_append_eq_of_le le_rfl, Nat.sub_self,
    BitVec.extractLsb'_append_eq_right]

/-- A register number is its top bit and its low three bits (R70). -/
theorem joined_extract (r : RegNum) : joined (r.extractLsb' 3 1) (r.extractLsb' 0 3) = r := by
  revert r
  decide

/-! ## The row of an instruction -/

/-- What a row other than row 2 accepts, no earlier row accepts, so that it decodes by that row (R74). -/
theorem decode_of_accepts (k : Nat) (r : CatalogRow) (h : Halfword) (hk : catalog[k]? = some r) (hne : k ≠ 1)
    (hr : r.accepts h = true) : decode (.one h) = .ok (r.build h) := by
  refine (decode_one_eq_ok_iff_first h _).mpr ⟨k, r, hk, hr, rfl, fun j hjk q hj => ?_⟩
  obtain ⟨hjl, rfl⟩ := List.getElem?_eq_some_iff.mp hj
  obtain ⟨hkl, rfl⟩ := List.getElem?_eq_some_iff.mp hk
  rw [← Bool.not_eq_true]
  intro hq
  exact hne (places_of_overlap j k hjl hkl hjk (rowsOverlap_of_accepts _ _ h hq hr)).2

/-- An instruction whose row fixes the leading bits `op` of its word and reads it back from the other `m` bits. -/
theorem hasWord_of_row {n m k : Nat} {i : Instr} {h mask : Halfword} {form layout : String} {build : Halfword → Instr}
    (op : BitVec n) (rest : BitVec m) (hsplit : h = pack (op ++ rest))
    (hk : catalog[k]? = some ⟨form, layout, mask, pack (op ++ 0#m), build⟩) (hne : k ≠ 1)
    (hmask : mask = BitVec.allOnes 16 <<< m) (hword : encode i = .one h) (hbuild : build h = i) :
    hasWord i (.one h) := by
  have haccepts : h &&& mask = pack (op ++ 0#m) := by rw [hsplit, hmask, pack_and_highMask]
  exact ⟨hword, hbuild ▸ decode_of_accepts k _ h hk hne ((accepts_iff _ h).mpr haccepts)⟩

/-! ## The layouts

Each lemma takes the place `k` of an instruction's row in the catalog, and that row: its mask, its fixed bits and its fields. -/

section
variable {k : Nat} {form layout : String}

/-- Three 3-bit fields after seven fixed bits. -/
theorem hasWord_threeFields (f : LowReg → LowReg → BitVec 3 → Instr) (op : BitVec 7) (a b c : BitVec 3)
    (hk : catalog[k]? =
      some ⟨form, layout, 0xFE00#16, pack (op ++ 0#9), fun h => f (field h 0 3) (field h 3 3) (field h 6 3)⟩)
    (hne : k ≠ 1) (hword : encode (f c b a) = .one (pack (op ++ a ++ b ++ c))) :
    hasWord (f c b a) (.one (pack (op ++ a ++ b ++ c))) := by
  have ha : field (pack (op ++ a ++ b ++ c)) 6 3 = a := by
    rw [pack_append_assoc]
    exact field_pack_middle op a (b ++ c) (by decide)
  have hb : field (pack (op ++ a ++ b ++ c)) 3 3 = b := field_pack_middle (op ++ a) b c (by decide)
  have hc : field (pack (op ++ a ++ b ++ c)) 0 3 = c := field_pack_last (op ++ a ++ b) c (by decide)
  have hsplit : pack (op ++ a ++ b ++ c) = pack (op ++ (a ++ (b ++ c))) := by rw [pack_append_assoc, pack_append_assoc]
  exact hasWord_of_row op (a ++ (b ++ c)) hsplit hk hne (by decide) hword (congr (congrArg₂ f hc hb) ha)

/-- Two 3-bit fields after ten fixed bits. -/
theorem hasWord_twoRegs (f : LowReg → LowReg → Instr) (op : BitVec 10) (a b : LowReg)
    (hk : catalog[k]? = some ⟨form, layout, 0xFFC0#16, pack (op ++ 0#6), fun h => f (field h 0 3) (field h 3 3)⟩)
    (hne : k ≠ 1) (hword : encode (f b a) = .one (pack (op ++ a ++ b))) :
    hasWord (f b a) (.one (pack (op ++ a ++ b))) := by
  have ha : field (pack (op ++ a ++ b)) 3 3 = a := field_pack_middle op a b (by decide)
  have hb : field (pack (op ++ a ++ b)) 0 3 = b := field_pack_last (op ++ a) b (by decide)
  exact hasWord_of_row op (a ++ b) (pack_append_assoc op a b) hk hne (by decide) hword (congrArg₂ f hb ha)

/-- A register and an 8-bit immediate after five fixed bits. -/
theorem hasWord_regImm8 (f : LowReg → BitVec 8 → Instr) (op : BitVec 5) (a : LowReg) (b : BitVec 8)
    (hk : catalog[k]? = some ⟨form, layout, 0xF800#16, pack (op ++ 0#11), fun h => f (field h 8 3) (field h 0 8)⟩)
    (hne : k ≠ 1) (hword : encode (f a b) = .one (pack (op ++ a ++ b))) :
    hasWord (f a b) (.one (pack (op ++ a ++ b))) := by
  have ha : field (pack (op ++ a ++ b)) 8 3 = a := field_pack_middle op a b (by decide)
  have hb : field (pack (op ++ a ++ b)) 0 8 = b := field_pack_last (op ++ a) b (by decide)
  exact hasWord_of_row op (a ++ b) (pack_append_assoc op a b) hk hne (by decide) hword (congrArg₂ f ha hb)

/-- A 7-bit immediate after nine fixed bits. -/
theorem hasWord_imm7 (f : BitVec 7 → Instr) (op : BitVec 9) (a : BitVec 7)
    (hk : catalog[k]? = some ⟨form, layout, 0xFF80#16, pack (op ++ 0#7), fun h => f (field h 0 7)⟩)
    (hne : k ≠ 1) (hword : encode (f a) = .one (pack (op ++ a))) : hasWord (f a) (.one (pack (op ++ a))) :=
  hasWord_of_row op a rfl hk hne (by decide) hword (congrArg f (field_pack_last op a (by decide)))

/-- Two register numbers after eight fixed bits, the first one split into its top bit and its low three bits (R70). -/
theorem hasWord_highRegs (f : RegNum → RegNum → Instr) (op : BitVec 8) (r m : RegNum)
    (hk : catalog[k]? =
      some ⟨form, layout, 0xFF00#16, pack (op ++ 0#8), fun h => f (joined (field h 7 1) (field h 0 3)) (field h 3 4)⟩)
    (hne : k ≠ 1) (hword : encode (f r m) = .one (pack (op ++ r.extractLsb' 3 1 ++ m ++ r.extractLsb' 0 3))) :
    hasWord (f r m) (.one (pack (op ++ r.extractLsb' 3 1 ++ m ++ r.extractLsb' 0 3))) := by
  have hr : r = joined (r.extractLsb' 3 1) (r.extractLsb' 0 3) := (joined_extract r).symm
  generalize r.extractLsb' 3 1 = top at *
  generalize r.extractLsb' 0 3 = rest at *
  have htop : field (pack (op ++ top ++ m ++ rest)) 7 1 = top := by
    rw [pack_append_assoc]
    exact field_pack_middle op top (m ++ rest) (by decide)
  have hm : field (pack (op ++ top ++ m ++ rest)) 3 4 = m := field_pack_middle (op ++ top) m rest (by decide)
  have hrest : field (pack (op ++ top ++ m ++ rest)) 0 3 = rest := field_pack_last (op ++ top ++ m) rest (by decide)
  have hsplit : pack (op ++ top ++ m ++ rest) = pack (op ++ (top ++ (m ++ rest))) := by
    rw [pack_append_assoc, pack_append_assoc]
  refine hasWord_of_row op (top ++ (m ++ rest)) hsplit hk hne (by decide) hword ?_
  rw [htop, hm, hrest, hr]

end

end Sys2Proof.Machine
end

section
/-! PROOFS. What an instruction writes and what it leaves as it was, by the operation on the state that it ends in. -/

namespace Sys2Proof.Machine

/-! ## What an update leaves as it was -/

theorem flagsAre_setNZCV (s : State) (n z c v : Bool) : flagsAre s (s.setNZCV n z c v) n z c v :=
  ⟨setNZCV_flagN s n z c v, setNZCV_flagZ s n z c v, setNZCV_flagC s n z c v, setNZCV_flagV s n z c v,
    setNZCV_low s n z c v⟩

theorem restKept_setNZCV (s : State) (n z c v : Bool) : restKept [] s (s.setNZCV n z c v) :=
  ⟨fun _ _ => rfl, fun _ => rfl, ⟨rfl, rfl, rfl⟩, rfl, rfl⟩

theorem regsKept_setReg (s : State) (r : RegNum) (v : Word) : regsKept [r] s (s.setReg r v) := by
  intro q hq
  rw [reg_setReg, if_neg]
  rintro rfl
  exact hq (List.mem_singleton_self r)

theorem restKept_setReg (s : State) (r : RegNum) (v : Word) : restKept [r] s (s.setReg r v) :=
  ⟨regsKept_setReg s r v, fun _ => rfl, ⟨rfl, rfl, rfl⟩, rfl, rfl⟩

/-! ## Results with flags -/

/-- What the ALU returns for a result `r`: N and Z are those of `r` (R120). -/
def aluOf (r : Word) (c v : Bool) : AluResult := ⟨r, r.msb, r == 0#32, c, v⟩

theorem isNegative_eq (r : Word) : isNegative r = r.msb := (BitVec.msb_eq_getLsbD_last r).symm

theorem setNZ_eq_setFlags (s : State) (r : Word) : s.setNZ r = s.setFlags (aluOf r s.flagC s.flagV) := by
  simp [aluOf, isNegative_eq, isZero]

theorem setNZ_writesFlags (s : State) (r : Word) :
    flagsAre s (s.setNZ r) r.msb (r == 0#32) s.flagC s.flagV ∧ restKept [] s (s.setNZ r) := by
  rw [setNZ_eq, isNegative_eq, isZero]
  exact ⟨flagsAre_setNZCV _ _ _ _ _, restKept_setNZCV _ _ _ _ _⟩

/-! ## What an instruction does, by the operation it ends in -/

/-- Clearing bit 0, as two shifts (R106). -/
theorem clearBit0_eq_shifts (v : Word) : clearBit0 v = (v >>> 1) <<< 1 := by
  rw [BitVec.shiftLeft_ushiftRight]
  rfl

section
variable {i : Instr} {s : State}

theorem computes_of_exec {rd : LowReg} {r : Word} {c v : Bool}
    (h : exec i s = .next (s.writeAlu rd (aluOf r c v))) : computes i s rd r c v :=
  ⟨_, h, by simp [State.writeAlu, aluOf], flagsAre_setNZCV (s.setLow rd r) _ _ c v, restKept_setReg s (low rd) r⟩

theorem compares_of_exec {r : Word} {c v : Bool} (h : exec i s = .next (s.setFlags (aluOf r c v))) :
    compares i s r c v :=
  ⟨_, h, flagsAre_setNZCV s _ _ c v, restKept_setNZCV s _ _ c v⟩

theorem sets_of_exec {rd : RegNum} {r : Word} (h : exec i s = .next (s.setReg rd r)) : sets i s rd r :=
  ⟨_, h, by simp, rfl, restKept_setReg s rd r⟩

theorem jumps_of_exec {target : Word} (h : exec i s = .next (s.writePC target)) : ∃ t, jumps i s t target [] := by
  refine ⟨_, h, ?_, rfl, rfl, regsKept_setReg s PC (clearBit0 target), fun _ => rfl, ⟨rfl, rfl, rfl⟩, rfl⟩
  rw [reg_writePC, if_pos rfl, clearBit0_eq_shifts]

end

end Sys2Proof.Machine
end

section
/-! PROOFS. The ALU (R120 to R124): `add`, `sub` and `mul` in exact integers, their flags in the words of the rules, and the
laws that relate them. -/

namespace Sys2Proof.Machine

/-! ## Sums -/

theorem addWithCarry_value (x y : Word) (cin : Bool) :
    (addWithCarry x y cin).value = x + y + (BitVec.ofBool cin).setWidth 32 := by
  apply BitVec.eq_of_toNat_eq
  simp [addWithCarry]

/-- The low 32 bits of a sum misread the exact signed sum exactly when that is no 32-bit value (R120). -/
theorem toInt_ofNat_ne_iff (x y : Word) (cin : Bool) :
    (BitVec.ofNat 32 (x.toNat + y.toNat + cin.toNat)).toInt ≠ x.toInt + y.toInt + cin.toNat ↔
      x.toInt + y.toInt + cin.toNat < -2 ^ 31 ∨ 2 ^ 31 ≤ x.toInt + y.toInt + cin.toNat := by
  have hx := x.isLt
  have hy := y.isLt
  have hcin : cin.toNat ≤ 1 := Bool.toNat_le cin
  simp only [BitVec.toInt_eq_toNat_cond, BitVec.toNat_ofNat]
  omega

/-- AddWithCarry: the sum, its carry and its signed overflow (R120). -/
theorem addWithCarry_eq (x y : Word) (cin : Bool) : addWithCarry x y cin =
    aluOf (x + y + (BitVec.ofBool cin).setWidth 32) (sumCarry x y cin) (sumOverflow x y cin) := by
  have hc : (addWithCarry x y cin).c = sumCarry x y cin := decide_eq_decide.mpr Nat.lt_iff_add_one_le
  have hv : (addWithCarry x y cin).v = sumOverflow x y cin := decide_eq_decide.mpr (toInt_ofNat_ne_iff x y cin)
  rw [← addWithCarry_value, ← hc, ← hv, aluOf, ← isNegative_eq]
  rfl

theorem aluAdd_eq (a b : Word) : aluAdd a b = aluOf (a + b) (sumCarry a b false) (sumOverflow a b false) := by
  rw [aluAdd, addWithCarry_eq]
  simp

/-- The signed overflow of a sum, by the signs of the operands and of the result (R121). -/
theorem sumOverflow_eq_signs (a b : Word) :
    sumOverflow a b false = decide (a.msb = b.msb ∧ (a + b).msb ≠ a.msb) := by
  have h : sumOverflow a b false = a.saddOverflow b := by
    simp [sumOverflow, BitVec.saddOverflow, or_comm]
  rw [h, BitVec.saddOverflow_eq]
  cases a.msb <;> cases b.msb <;> cases (a + b).msb <;> rfl

/-! ## Differences -/

/-- The signed overflow of a difference, by the signs of the operands and of the result (R122). -/
theorem differenceOverflow_eq_signs (a b : Word) :
    differenceOverflow a b = decide (a.msb ≠ b.msb ∧ (a - b).msb ≠ a.msb) := by
  have h : differenceOverflow a b = a.ssubOverflow b := by
    simp [differenceOverflow, BitVec.ssubOverflow, or_comm]
  rw [h, BitVec.ssubOverflow_eq]
  cases a.msb <;> cases b.msb <;> cases (a - b).msb <;> rfl

theorem aluSub_eq (a b : Word) : aluSub a b = aluOf (a - b) (noBorrow a b) (differenceOverflow a b) := by
  have hv : (aluSub a b).v = differenceOverflow a b := by
    rw [differenceOverflow_eq_signs, ← isNegative_eq, ← isNegative_eq, ← isNegative_eq]
    change (isNegative a != isNegative b && isNegative (a - b) != isNegative a) = _
    cases isNegative a <;> cases isNegative b <;> cases isNegative (a - b) <;> rfl
  rw [← hv, aluOf, ← isNegative_eq]
  rfl

/-- Adding a complement with carry subtracts: the result (R122, R137). -/
theorem add_not_value (x y : Word) (cin : Bool) :
    x + ~~~y + (BitVec.ofBool cin).setWidth 32 = x - y - (BitVec.ofBool !cin).setWidth 32 := by
  have hnot : ~~~y = -y - 1#32 := by rw [BitVec.neg_eq_not_add, BitVec.add_sub_cancel]
  rw [hnot]
  cases cin
  · change x + (-y - 1) + 0 = x - y - 1
    ring
  · change x + (-y - 1) + 1 = x - y - 0
    ring

/-- Adding a complement with carry subtracts: the carry is no borrow (R122, R137). -/
theorem sumCarry_not (x y : Word) (cin : Bool) :
    sumCarry x (~~~y) cin = decide (y.toNat + (!cin).toNat ≤ x.toNat) := by
  have hy := y.isLt
  rw [sumCarry, decide_eq_decide, BitVec.toNat_not]
  cases cin <;> simp only [Bool.not_true, Bool.not_false, Bool.toNat_true, Bool.toNat_false] <;> omega

/-- Adding a complement with carry subtracts: the exact signed values agree (R122, R137). -/
theorem sumOverflow_not (x y : Word) (cin : Bool) : sumOverflow x (~~~y) cin =
    decide (x.toInt - y.toInt - (!cin).toNat < -2 ^ 31 ∨ 2 ^ 31 ≤ x.toInt - y.toInt - (!cin).toNat) := by
  have hy := y.isLt
  have hnot : (~~~y).toInt = -y.toInt - 1 := by
    simp only [BitVec.toInt_eq_toNat_cond, BitVec.toNat_not]
    omega
  rw [sumOverflow, decide_eq_decide, hnot]
  cases cin <;> simp only [Bool.not_true, Bool.not_false, Bool.toNat_true, Bool.toNat_false] <;> omega

/-- `sub` is AddWithCarry of the complement with a carry of 1 (R122). -/
theorem aluSub_eq_addWithCarry (a b : Word) : aluSub a b = addWithCarry a (~~~b) true := by
  rw [aluSub_eq, addWithCarry_eq, add_not_value, sumCarry_not, sumOverflow_not]
  simp [noBorrow, differenceOverflow]

/-- `sub` has the carry of adding the negation, except for 0 (R122, R124). -/
theorem noBorrow_eq_sumCarry_neg (a b : Word) (hb : b ≠ 0#32) : noBorrow a b = sumCarry a (-b) false := by
  have hlt := b.isLt
  have hpos : b.toNat ≠ 0 := fun h => hb (BitVec.eq_of_toNat_eq h)
  rw [noBorrow, sumCarry, decide_eq_decide, BitVec.toNat_neg, Nat.mod_eq_of_lt (by omega), Bool.toNat_false]
  omega

/-- `sub` has the overflow of adding the negation, except for the least value, which is its own negation (R124). -/
theorem differenceOverflow_eq_sumOverflow_neg (a b : Word) (hb : b ≠ 0x80000000#32) :
    differenceOverflow a b = sumOverflow a (-b) false := by
  rw [differenceOverflow, sumOverflow, decide_eq_decide, BitVec.toInt_neg_of_ne_intMin hb, Bool.toNat_false]
  omega

/-! ## Products -/

theorem aluMul_eq (a b : Word) : aluMul a b = a * b := by
  apply BitVec.eq_of_toNat_eq
  simp [aluMul]

theorem aluMul_eq_ofInt (a b : Word) : aluMul a b = BitVec.ofInt 32 (a.toInt * b.toInt) := by
  rw [aluMul_eq, BitVec.ofInt_mul, BitVec.ofInt_toInt, BitVec.ofInt_toInt]

/-! ## The ALU's statements -/

/-- Settles O32: the flags by the closed forms of `add` and `sub`, with V by the signs. -/
theorem aluPrimitives : Obligations.AluPrimitives := by
  refine ⟨fun a b => ?_, fun a b => ?_, fun a b => ⟨BitVec.toNat_ofNat _ _, aluMul_eq_ofInt a b⟩, setNZ_writesFlags⟩
  · have hadd := aluAdd_eq a b
    rw [hadd]
    exact ⟨rfl, rfl, rfl, rfl, sumOverflow_eq_signs a b, hadd.symm⟩
  · refine ⟨rfl, isNegative_eq _, rfl, rfl, ?_, fun hb => ?_, aluSub_eq_addWithCarry a b⟩
    · rw [aluSub_eq]
      exact differenceOverflow_eq_signs a b
    · rw [aluSub_eq, aluAdd_eq]
      exact noBorrow_eq_sumCarry_neg a b hb

/-- Settles O33: subtracting against adding the negation, with the exceptions of C and V. -/
theorem aluLaws : Obligations.AluLaws := by
  refine ⟨fun a b => decide_eq_true_iff, by decide, fun a b => ?_⟩
  rw [aluSub_eq, aluAdd_eq, BitVec.sub_eq_add_neg]
  exact ⟨rfl, rfl, rfl, noBorrow_eq_sumCarry_neg a b, differenceOverflow_eq_sumOverflow_neg a b⟩

end Sys2Proof.Machine
end

section
/-! PROOFS. The arithmetic instructions and MOV between any registers (41_arithmetic.md, R168): each form by its row of the
catalog and by the operation that it ends in. -/

namespace Sys2Proof.Machine

/-! ## Sums and differences into a low register -/

section
variable {i : Instr} {s : State} {rd : LowReg} {a b : Word}

theorem computes_add (h : exec i s = .next (s.writeAlu rd (aluAdd a b))) :
    computes i s rd (a + b) (sumCarry a b false) (sumOverflow a b false) := by
  rw [aluAdd_eq] at h
  exact computes_of_exec h

theorem computes_sub (h : exec i s = .next (s.writeAlu rd (aluSub a b))) :
    computes i s rd (a - b) (noBorrow a b) (differenceOverflow a b) := by
  rw [aluSub_eq] at h
  exact computes_of_exec h

theorem compares_add (h : exec i s = .next (s.setFlags (aluAdd a b))) :
    compares i s (a + b) (sumCarry a b false) (sumOverflow a b false) := by
  rw [aluAdd_eq] at h
  exact compares_of_exec h

theorem compares_sub (h : exec i s = .next (s.setFlags (aluSub a b))) :
    compares i s (a - b) (noBorrow a b) (differenceOverflow a b) := by
  rw [aluSub_eq] at h
  exact compares_of_exec h

end

/-- Settles O35: each form by its row of the catalog and by the sum or difference that it writes. -/
theorem addAndSubtract : Obligations.AddAndSubtract := fun _ rd rn rm imm3 imm8 =>
  ⟨hasWord_threeFields (k := 4) .addsReg 0b0001100#7 rm rn rd rfl (by decide) rfl, computes_add rfl,
    hasWord_threeFields (k := 5) .subsReg 0b0001101#7 rm rn rd rfl (by decide) rfl, computes_sub rfl,
    hasWord_threeFields (k := 6) .addsImm3 0b0001110#7 imm3 rn rd rfl (by decide) rfl, computes_add rfl,
    hasWord_threeFields (k := 7) .subsImm3 0b0001111#7 imm3 rn rd rfl (by decide) rfl, computes_sub rfl,
    hasWord_regImm8 (k := 10) .addsImm8 0b00110#5 rd imm8 rfl (by decide) rfl, computes_add rfl,
    hasWord_regImm8 (k := 11) .subsImm8 0b00111#5 rd imm8 rfl (by decide) rfl, computes_sub rfl⟩

/-- Settles O36: each form by its row and by the sum or difference whose flags it writes. (The name `compares` is the
model's.) -/
theorem comparesAll : Obligations.Compares := fun _ rn rm hn hm imm8 =>
  ⟨hasWord_regImm8 (k := 9) .cmpImm8 0b00101#5 rn imm8 rfl (by decide) rfl, compares_sub rfl,
    hasWord_twoRegs (k := 22) .cmpReg 0b0100001010#10 rm rn rfl (by decide) rfl, compares_sub rfl,
    hasWord_twoRegs (k := 23) .cmn 0b0100001011#10 rm rn rfl (by decide) rfl, compares_add rfl,
    hasWord_highRegs (k := 29) .cmpHi 0b01000101#8 hn hm rfl (by decide) rfl, compares_sub rfl⟩

/-! ## Carry in, negation and product -/

theorem computes_adcs (s : State) (rd rm : LowReg) :
    computes (.adcs rd rm) s rd (s.reg (low rd) + s.reg (low rm) + (BitVec.ofBool s.flagC).setWidth 32)
      (sumCarry (s.reg (low rd)) (s.reg (low rm)) s.flagC) (sumOverflow (s.reg (low rd)) (s.reg (low rm)) s.flagC) := by
  apply computes_of_exec
  rw [← addWithCarry_eq]
  rfl

/-- SBCS adds the complement with the carry, which is a subtraction with borrow (R137). -/
theorem computes_sbcs (s : State) (rd rm : LowReg) :
    computes (.sbcs rd rm) s rd (s.reg (low rd) - s.reg (low rm) - (BitVec.ofBool (!s.flagC)).setWidth 32)
      (decide ((s.reg (low rm)).toNat + (!s.flagC).toNat ≤ (s.reg (low rd)).toNat))
      (decide ((s.reg (low rd)).toInt - (s.reg (low rm)).toInt - (!s.flagC).toNat < -2 ^ 31 ∨
        2 ^ 31 ≤ (s.reg (low rd)).toInt - (s.reg (low rm)).toInt - (!s.flagC).toNat)) := by
  apply computes_of_exec
  rw [← add_not_value, ← sumCarry_not, ← sumOverflow_not, ← addWithCarry_eq]
  rfl

theorem noBorrow_zero (y : Word) : noBorrow 0#32 y = (y == 0#32) := by
  have h : y.toNat ≤ 0 ↔ y = 0#32 := by rw [Nat.le_zero, ← BitVec.toNat_inj]; rfl
  exact decide_eq_decide.mpr h

/-- Negation overflows at the least value only (R138). -/
theorem differenceOverflow_zero (y : Word) : differenceOverflow 0#32 y = (y == 0x80000000#32) := by
  have h : ((0#32).toInt - y.toInt < -2 ^ 31 ∨ 2 ^ 31 ≤ (0#32).toInt - y.toInt) ↔ y = 0x80000000#32 := by
    have hlt := y.isLt
    rw [← BitVec.toNat_inj]
    simp only [BitVec.toInt_eq_toNat_cond, BitVec.toNat_ofNat]
    omega
  exact decide_eq_decide.mpr h

theorem computes_rsbs (s : State) (rd rn : LowReg) :
    computes (.rsbs rd rn) s rd (-s.reg (low rn)) (s.reg (low rn) == 0#32) (s.reg (low rn) == 0x80000000#32) := by
  have h : computes (.rsbs rd rn) s rd (0#32 - s.reg (low rn)) _ _ := computes_sub rfl
  rwa [BitVec.zero_sub, noBorrow_zero, differenceOverflow_zero] at h

/-- MULS writes N and Z of the product and the C and V that stood before (R139). -/
theorem computes_muls (s : State) (rd rn : LowReg) :
    computes (.muls rd rn) s rd (s.reg (low rn) * s.reg (low rd)) s.flagC s.flagV := by
  apply computes_of_exec
  rw [← aluMul_eq]
  exact congrArg Host.Outcome.next (setNZ_eq_setFlags (s.setLow rd (aluMul _ _)) _)

theorem lowField_low (r : LowReg) : lowField (low r) = .ok r := by
  revert r
  decide

/-- What assembles is the first entry that accepts (R79). -/
theorem assemble_eq_ok (ctx : EncodeContext) (m : Mnemonic) (ops : List Operand) (i : Instr) :
    assemble ctx m ops = .ok i ↔ firstOk (entries ctx m ops) = some i := by
  obtain ⟨j, hfirst, h⟩ | ⟨hfirst, h⟩ := assemble_cases ctx m ops <;> simp [hfirst, h]

/-- RSBS takes the immediate 0 only (R138). -/
theorem assemble_rsbs_iff (ctx : EncodeContext) (rd rn : LowReg) (v : Int) :
    (∃ i, assemble ctx .rsbs [.reg (low rd), .reg (low rn), .imm v] = .ok i) ↔ v = 0 := by
  simp only [assemble_eq_ok]
  by_cases hv : v = 0 <;> simp [entries, enc2F, lowField_low, firstOk, hv]

/-- Settles O37: each form by its row and by the result that it writes, and the one immediate of RSBS. -/
theorem carryNegateMultiply : Obligations.CarryNegateMultiply := fun s rd rm =>
  ⟨hasWord_twoRegs (k := 17) .adcs 0b0100000101#10 rm rd rfl (by decide) rfl, computes_adcs s rd rm,
    hasWord_twoRegs (k := 18) .sbcs 0b0100000110#10 rm rd rfl (by decide) rfl, computes_sbcs s rd rm,
    hasWord_twoRegs (k := 21) .rsbs 0b0100001001#10 rm rd rfl (by decide) rfl, computes_rsbs s rd rm,
    hasWord_twoRegs (k := 25) .muls 0b0100001101#10 rm rd rfl (by decide) rfl, computes_muls s rd rm,
    fun ctx v => assemble_rsbs_iff ctx rd rm v⟩

/-! ## Any registers -/

section
variable {i : Instr} {s : State} {rd : RegNum} {v : Word}

theorem sets_of_setHigh (h : exec i s = .next (s.setHigh rd v)) (hrd : rd ≠ PC) : sets i s rd v :=
  sets_of_exec (h.trans (congrArg Host.Outcome.next (setHigh_of_ne s rd v hrd)))

theorem jumps_of_setHigh (h : exec i s = .next (s.setHigh rd v)) (hrd : rd = PC) : ∃ t, jumps i s t v [] := by
  subst hrd
  exact jumps_of_exec h

end

/-- Settles O38: the destination is written through `setHigh`, which is a PC write for register 15. -/
theorem highAddAndMove : Obligations.HighAddAndMove := fun _ rd rm =>
  ⟨hasWord_highRegs (k := 28) .addHi 0b01000100#8 rd rm rfl (by decide) rfl, sets_of_setHigh rfl, jumps_of_setHigh rfl,
    hasWord_highRegs (k := 30) .movHi 0b01000110#8 rd rm rfl (by decide) rfl, sets_of_setHigh rfl, jumps_of_setHigh rfl⟩

/-! ## Addresses -/

/-- Clearing bits 1 and 0, as two shifts (R142). -/
theorem align4_eq_shifts (v : Word) : align4 v = (v >>> 2) <<< 2 := by
  rw [BitVec.shiftLeft_ushiftRight]
  rfl

/-- A word offset is the immediate times 4 (R72). -/
theorem zextWord_eq_mul {w : Nat} (imm : BitVec w) : zextWord imm = imm.setWidth 32 * 4#32 := by
  apply BitVec.eq_of_toNat_eq
  simp [zextWord, BitVec.toNat_append, Nat.shiftLeft_eq]

/-- Settles O39: each form by its row and by the one register that it writes. -/
theorem addressArithmetic : Obligations.AddressArithmetic := fun s rd imm8 imm7 => by
  rw [← zextWord_eq_mul imm8, ← zextWord_eq_mul imm7, ← align4_eq_shifts]
  exact ⟨hasWord_regImm8 (k := 50) .adr 0b10100#5 rd imm8 rfl (by decide) rfl, sets_of_exec rfl,
    hasWord_regImm8 (k := 51) .addRdSp 0b10101#5 rd imm8 rfl (by decide) rfl, sets_of_exec rfl,
    hasWord_imm7 (k := 52) .addSpImm 0b101100000#9 imm7 rfl (by decide) rfl, sets_of_exec rfl,
    hasWord_imm7 (k := 53) .subSpImm 0b101100001#9 imm7 rfl (by decide) rfl, sets_of_exec rfl⟩

end Sys2Proof.Machine
end

section
/-! PROOFS. The logical and move instructions (42_logical_move.md): each form by its row of the catalog and by the result whose
N and Z it writes, with C and V as they were. -/

namespace Sys2Proof.Machine

/-! ## Results with N and Z -/

/-- A result with N and Z is an ALU result with the C and V that stood before (R160). -/
theorem writeNZ_eq_writeAlu (s : State) (rd : LowReg) (r : Word) :
    s.writeNZ rd r = s.writeAlu rd (aluOf r s.flagC s.flagV) :=
  setNZ_eq_setFlags (s.setLow rd r) r

section
variable {i : Instr} {s : State} {rd : LowReg} {r : Word}

theorem computes_of_writeNZ (h : exec i s = .next (s.writeNZ rd r)) : computes i s rd r s.flagC s.flagV := by
  rw [writeNZ_eq_writeAlu] at h
  exact computes_of_exec h

theorem compares_of_setNZ (h : exec i s = .next (s.setNZ r)) : compares i s r s.flagC s.flagV := by
  rw [setNZ_eq_setFlags] at h
  exact compares_of_exec h

end

/-- Settles O40: each form by its row of the catalog and by the result that it writes, or for TST discards. -/
theorem bitwiseOperations : Obligations.BitwiseOperations := fun _ rd rm =>
  ⟨hasWord_twoRegs (k := 12) .ands 0b0100000000#10 rm rd rfl (by decide) rfl, computes_of_writeNZ rfl,
    hasWord_twoRegs (k := 13) .eors 0b0100000001#10 rm rd rfl (by decide) rfl, computes_of_writeNZ rfl,
    hasWord_twoRegs (k := 24) .orrs 0b0100001100#10 rm rd rfl (by decide) rfl, computes_of_writeNZ rfl,
    hasWord_twoRegs (k := 26) .bics 0b0100001110#10 rm rd rfl (by decide) rfl, computes_of_writeNZ rfl,
    hasWord_twoRegs (k := 27) .mvns 0b0100001111#10 rm rd rfl (by decide) rfl, computes_of_writeNZ rfl,
    hasWord_twoRegs (k := 20) .tst 0b0100001000#10 rm rd rfl (by decide) rfl, compares_of_setNZ rfl⟩

/-! ## The immediates of MOVS -/

/-- An immediate without a scale: the range, then the field (R82). -/
theorem scaledField_one (w : Nat) (v : Int) : scaledField w 1 v =
    if 0 ≤ v ∧ v ≤ 2 ^ w - 1 then .ok (BitVec.ofInt w v) else .error .immediateTooWide := by
  simp [scaledField_eq]

/-- A low register passes its check, so that the other field decides (R81). -/
theorem enc1F_low {α : Type} (r : LowReg) (x : Except EncodeErrorKind α) (f : LowReg → α → Instr) :
    enc1F (low r) x f = x.map (f r) := by
  cases x <;> simp only [enc1F, lowField_low, Except.map]

/-- MOVS of a number takes 0 to 255, each as the 8-bit form (R82, R166). -/
theorem assemble_movs_imm_iff (ctx : EncodeContext) (rd : LowReg) (v : Int) (i : Instr) :
    assemble ctx .movs [.reg (low rd), .imm v] = .ok i ↔ 0 ≤ v ∧ v ≤ 255 ∧ i = .movsImm8 rd (BitVec.ofInt 8 v) := by
  have hentries : entries ctx .movs [.reg (low rd), .imm v] = [(scaledField 8 1 v).map (.movsImm8 rd)] :=
    congrArg (fun x => [x]) (enc1F_low rd _ _)
  have hfield : scaledField 8 1 v = if 0 ≤ v ∧ v ≤ 255 then .ok (BitVec.ofInt 8 v) else .error .immediateTooWide :=
    scaledField_one 8 v
  rw [assemble_eq_ok, hentries, hfield, ← and_assoc]
  by_cases hv : 0 ≤ v ∧ v ≤ 255
  · simp [hv, firstOk, Except.map, eq_comm]
  · simp [hv, firstOk, Except.map]

/-- An 8-bit immediate is not negative as a word (R72, R166). -/
theorem setWidth_imm8_msb (imm8 : BitVec 8) : (imm8.setWidth 32).msb = false := by
  simp [BitVec.msb_setWidth]

/-- Settles O41: each form by its row and by the value that it writes, and the immediates by the range of the field. -/
theorem moves : Obligations.Moves := fun _ rd rm imm8 =>
  ⟨hasWord_regImm8 (k := 8) .movsImm8 0b00100#5 rd imm8 rfl (by decide) rfl,
    ⟨computes_of_writeNZ rfl, setWidth_imm8_msb imm8⟩,
    hasWord_twoRegs (k := 0) .movsReg 0b0000000000#10 rm rd rfl (by decide) rfl, computes_of_writeNZ rfl,
    fun ctx v => by simp only [assemble_movs_imm_iff, exists_and_left, exists_eq, and_true]⟩

end Sys2Proof.Machine
end

section
/-! PROOFS. The shifter (R180): each kind as a shift or rotate of bit vectors, for every amount, with its carry; then its result
bit by bit. -/

namespace Sys2Proof.Machine

/-! ## The kinds as shifts of bit vectors -/

theorem shiftC_zero (x : Word) (kind : ShiftKind) (cin : Bool) : shiftC x kind 0 cin = (x, cin) := rfl

theorem shiftC_lsl (x : Word) (n : Nat) (cin : Bool) :
    shiftC x .lsl n cin = (x <<< n, if n = 0 then cin else decide (n ≤ 32) && x.getLsbD (32 - n)) := by
  have hvalue : BitVec.ofNat 32 (x.toNat * 2 ^ n) = x <<< n := by
    rw [← BitVec.shiftLeft_eq, BitVec.shiftLeft, Nat.shiftLeft_eq]
  have hbeyond (h : ¬ n ≤ 32) : x <<< n = 0#32 := BitVec.shiftLeft_eq_zero (by omega)
  by_cases h0 : n = 0
  · simp [h0, shiftC_zero]
  · by_cases h : n ≤ 32 <;> simp [shiftC, h0, h, hvalue, hbeyond]

theorem shiftC_lsr (x : Word) (n : Nat) (cin : Bool) :
    shiftC x .lsr n cin = (x >>> n, if n = 0 then cin else x.getLsbD (n - 1)) := by
  have hvalue : BitVec.ofNat 32 (x.toNat / 2 ^ n) = x >>> n := by
    rw [← Nat.shiftRight_eq_div_pow, ← BitVec.toNat_ushiftRight, BitVec.ofNat_toNat, BitVec.setWidth_eq]
  have hbeyond (h : ¬ n ≤ 32) : x >>> n = 0#32 ∧ x.getLsbD (n - 1) = false :=
    ⟨BitVec.ushiftRight_eq_zero (by omega), BitVec.getLsbD_of_ge x _ (by omega)⟩
  by_cases h0 : n = 0
  · simp [h0, shiftC_zero]
  · by_cases h : n ≤ 32 <;> simp [shiftC, h0, h, hvalue, hbeyond]

/-- A signed shift by more than 32 is one by 32: every bit is the sign (R180). -/
theorem sshiftRight_min (x : Word) (n : Nat) : x.sshiftRight (min n 32) = x.sshiftRight n := by
  apply BitVec.eq_of_getLsbD_eq
  intro i hi
  rw [BitVec.getLsbD_sshiftRight, BitVec.getLsbD_sshiftRight]
  rcases Nat.le_total n 32 with h | h
  · rw [Nat.min_eq_left h]
  · rw [Nat.min_eq_right h, if_neg (by omega), if_neg (by omega)]

theorem shiftC_asr (x : Word) (n : Nat) (cin : Bool) :
    shiftC x .asr n cin =
      (x.sshiftRight n, if n = 0 then cin else if n ≤ 32 then x.getLsbD (n - 1) else x.msb) := by
  have hvalue : BitVec.ofInt 32 (x.toInt / 2 ^ min n 32) = x.sshiftRight n := by
    rw [← sshiftRight_min, BitVec.sshiftRight_eq, Int.shiftRight_eq_div_pow]
    norm_cast
  have hcarry : x.getLsbD (min n 32 - 1) = if n ≤ 32 then x.getLsbD (n - 1) else x.msb := by
    split
    next h => rw [Nat.min_eq_left h]
    next h => rw [Nat.min_eq_right (by omega), BitVec.msb_eq_getLsbD_last]
  by_cases h0 : n = 0
  · simp [h0, shiftC_zero]
  · simp only [shiftC, if_neg h0, hvalue, hcarry]

/-- A rotation as the sum of its two parts, which do not overlap (R180). -/
theorem ofNat_rotation (x : Word) (n : Nat) :
    BitVec.ofNat 32 (x.toNat / 2 ^ (n % 32) + x.toNat % 2 ^ (n % 32) * 2 ^ (32 - n % 32)) = x.rotateRight n := by
  have hr : n % 32 ≤ 32 := (Nat.mod_lt n (by decide)).le
  have hlow : x.toNat / 2 ^ (n % 32) < 2 ^ (32 - n % 32) := by
    rw [Nat.div_lt_iff_lt_mul (Nat.two_pow_pos _), ← pow_add, Nat.sub_add_cancel hr]
    exact x.isLt
  have hhigh : x.toNat <<< (32 - n % 32) % 2 ^ 32 = (x.toNat % 2 ^ (n % 32)) <<< (32 - n % 32) := by
    have hpow : 2 ^ 32 = 2 ^ (n % 32) * 2 ^ (32 - n % 32) := by rw [← pow_add, Nat.add_sub_cancel' hr]
    rw [Nat.shiftLeft_eq, Nat.shiftLeft_eq, hpow, Nat.mul_mod_mul_right]
  have hsum : (x.rotateRight n).toNat =
      x.toNat / 2 ^ (n % 32) + x.toNat % 2 ^ (n % 32) * 2 ^ (32 - n % 32) := by
    rw [BitVec.toNat_rotateRight, hhigh, Nat.shiftRight_eq_div_pow, Nat.or_comm,
      ← Nat.shiftLeft_add_eq_or_of_lt hlow, Nat.shiftLeft_eq, Nat.add_comm]
  rw [← hsum, BitVec.ofNat_toNat, BitVec.setWidth_eq]

theorem shiftC_ror (x : Word) (n : Nat) (cin : Bool) :
    shiftC x .ror n cin = (x.rotateRight n, if n = 0 then cin else (x.rotateRight n).msb) := by
  by_cases h0 : n = 0
  · simp [h0, shiftC_zero, BitVec.rotateRight_def]
  · by_cases hr : n % 32 = 0
    · have hsame : x.rotateRight n = x := by
        rw [← BitVec.rotateRight_mod_eq_rotateRight, hr, BitVec.rotateRight_def]
        simp
      simp [shiftC, h0, hr, hsame, BitVec.msb_eq_getLsbD_last]
    · simp [shiftC, h0, hr, ofNat_rotation, BitVec.msb_eq_getLsbD_last]

/-! ## The result bit by bit -/

/-- Bit `i` of a rotation (R180). -/
theorem rotateRight_getLsbD (x : Word) (n i : Nat) (hi : i < 32) :
    (x.rotateRight n).getLsbD i = x.getLsbD ((i + n) % 32) := by
  have hr : n % 32 < 32 := Nat.mod_lt n (by decide)
  rw [BitVec.getLsbD_rotateRight]
  by_cases h : i < 32 - n % 32
  · rw [show (i + n) % 32 = n % 32 + i by omega]
    simp [h]
  · rw [show (i + n) % 32 = i - (32 - n % 32) by omega]
    simp [h, hi]

/-- Settles O34: each kind is a shift or rotate of bit vectors, whose bits the library gives. -/
theorem shifterBits : Obligations.ShifterBits := by
  intro x cin n _
  refine ⟨fun kind => shiftC_zero x kind cin, fun hn => ?_⟩
  have hn0 : n ≠ 0 := hn.ne'
  simp only [shiftC_lsl, shiftC_lsr, shiftC_asr, shiftC_ror, if_neg hn0, BitVec.msb_eq_getLsbD_last, true_and, and_true]
  refine ⟨fun i hi => ?_, fun i hi => ?_, fun i hi => ?_, fun i hi => rotateRight_getLsbD x n i hi⟩
  · rw [BitVec.getLsbD_shiftLeft, decide_eq_true hi, Bool.true_and, ← decide_not]
    simp only [Nat.not_lt]
  · rw [BitVec.getLsbD_ushiftRight, Nat.add_comm]
  · rw [BitVec.getLsbD_sshiftRight, decide_eq_false (Nat.not_le.mpr hi), BitVec.msb_eq_getLsbD_last, Nat.add_comm n i,
      Bool.not_false, Bool.true_and]

end Sys2Proof.Machine
end

section
/-! PROOFS. The shift and rotate instructions (43_shift.md): each form by its row of the catalog and by the shift that it
writes, with V as it was. -/

namespace Sys2Proof.Machine

/-! ## Shifted results -/

/-- A shifted result is an ALU result with the carry of the shifter and the V that stood before (R184). -/
theorem writeShift_eq_writeAlu {s : State} {x r : Word} {kind : ShiftKind} {n : Nat} {c : Bool} (rd : LowReg)
    (hshift : shiftC x kind n s.flagC = (r, c)) :
    s.writeShift rd x kind n = s.writeAlu rd (aluOf r c s.flagV) := by
  simp only [State.writeShift, hshift, setNZC_eq, isNegative_eq]
  rfl

theorem computes_of_writeShift {i : Instr} {s : State} {rd : LowReg} {x r : Word} {kind : ShiftKind} {n : Nat} {c : Bool}
    (h : exec i s = .next (s.writeShift rd x kind n)) (hshift : shiftC x kind n s.flagC = (r, c)) :
    computes i s rd r c s.flagV := by
  rw [writeShift_eq_writeAlu rd hshift] at h
  exact computes_of_exec h

/-! ## Amounts -/

/-- The amount in a register is its low byte, bits 7:0 (R187). -/
theorem registerAmount_eq (s : State) (rm : LowReg) : s.registerAmount rm = (s.reg (low rm)).toNat % 256 := by
  rw [State.registerAmount, BitVec.extractLsb'_toNat, Nat.shiftRight_zero]
  rfl

/-- The amount of LSRS and ASRS by an immediate: `imm5`, or 32 for 0 (R185). -/
theorem shiftAmount_eq (imm5 : BitVec 5) : shiftAmount imm5 = if imm5.toNat = 0 then 32 else imm5.toNat := by
  simp only [shiftAmount, ← BitVec.toNat_inj]
  rfl

theorem shiftAmount_pos (imm5 : BitVec 5) : 0 < shiftAmount imm5 := by
  rw [shiftAmount_eq]
  split <;> omega

theorem shiftAmount_le (imm5 : BitVec 5) : shiftAmount imm5 ≤ 32 := by
  rw [shiftAmount_eq]
  split <;> omega

/-! ## By a register -/

/-- Settles O43: each form by its row of the catalog and by the shift of its kind, at the amount in the register. -/
theorem shiftsByRegister : Obligations.ShiftsByRegister := by
  intro s rd rm
  simp only [← registerAmount_eq]
  exact ⟨hasWord_twoRegs (k := 14) .lslsReg 0b0100000010#10 rm rd rfl (by decide) rfl,
    computes_of_writeShift rfl (shiftC_lsl _ _ _),
    hasWord_twoRegs (k := 15) .lsrsReg 0b0100000011#10 rm rd rfl (by decide) rfl,
    computes_of_writeShift rfl (shiftC_lsr _ _ _),
    hasWord_twoRegs (k := 16) .asrsReg 0b0100000100#10 rm rd rfl (by decide) rfl,
    computes_of_writeShift rfl (shiftC_asr _ _ _),
    hasWord_twoRegs (k := 19) .rors 0b0100000111#10 rm rd rfl (by decide) rfl,
    computes_of_writeShift rfl (shiftC_ror _ _ _)⟩

/-! ## By an immediate -/

section
variable (op imm5 : BitVec 5) (rm rd : LowReg)

/-- The fields of a word with a 5-bit immediate and two registers after five fixed bits. -/
theorem fields_regsImm5 :
    field (pack (op ++ imm5 ++ rm ++ rd)) 6 5 = imm5 ∧ field (pack (op ++ imm5 ++ rm ++ rd)) 3 3 = rm ∧
      field (pack (op ++ imm5 ++ rm ++ rd)) 0 3 = rd := by
  refine ⟨?_, field_pack_middle (op ++ imm5) rm rd (by decide), field_pack_last (op ++ imm5 ++ rm) rd (by decide)⟩
  rw [pack_append_assoc]
  exact field_pack_middle op imm5 (rm ++ rd) (by decide)

theorem pack_regsImm5 : pack (op ++ imm5 ++ rm ++ rd) = pack (op ++ (imm5 ++ (rm ++ rd))) := by
  rw [pack_append_assoc, pack_append_assoc]

/-- A 5-bit immediate and two registers after five fixed bits, in a row other than that of LSLS. -/
theorem hasWord_regsImm5 {k : Nat} {form layout : String} (f : LowReg → LowReg → BitVec 5 → Instr)
    (hk : catalog[k]? =
      some ⟨form, layout, 0xF800#16, pack (op ++ 0#11), fun h => f (field h 0 3) (field h 3 3) (field h 6 5)⟩)
    (hne : k ≠ 1) (hword : encode (f rd rm imm5) = .one (pack (op ++ imm5 ++ rm ++ rd))) :
    hasWord (f rd rm imm5) (.one (pack (op ++ imm5 ++ rm ++ rd))) := by
  obtain ⟨himm, hm, hd⟩ := fields_regsImm5 op imm5 rm rd
  exact hasWord_of_row op _ (pack_regsImm5 op imm5 rm rd) hk hne (by decide) hword (congr (congrArg₂ f hd hm) himm)

end

/-- The word of LSLS by other than 0 is not one of MOVS, the only earlier row that could accept it (R184). -/
theorem hasWord_lslsImm (rd rm : LowReg) (imm5 : BitVec 5) (h0 : imm5 ≠ 0#5) :
    hasWord (.lslsImm rd rm imm5) (.one (pack (0b00000#5 ++ imm5 ++ rm ++ rd))) := by
  obtain ⟨himm, hm, hd⟩ := fields_regsImm5 0b00000#5 imm5 rm rd
  have hmask : pack (0b00000#5 ++ imm5 ++ rm ++ rd) &&& 0xF800#16 = 0x0000#16 := by
    rw [pack_regsImm5]
    exact pack_and_highMask 0b00000#5 (imm5 ++ (rm ++ rd))
  refine ⟨rfl, (decode_one_eq_ok_iff_first _ _).mpr ⟨1, _, rfl, (accepts_iff _ _).mpr hmask, ?_, fun j hj q hq => ?_⟩⟩
  · exact (congr (congrArg₂ Instr.lslsImm hd hm) himm).symm
  · obtain rfl : j = 0 := by omega
    obtain rfl := Option.some.inj hq
    rw [← Bool.not_eq_true, accepts_iff]
    exact fun hmovs => h0 (himm.symm.trans (imm5_of_movsReg _ hmovs))

theorem encode_lslsImm_zero (rd rm : LowReg) : encode (.lslsImm rd rm 0#5) = encode (.movsReg rd rm) := rfl

section
variable (s : State) (rd rm : LowReg) (imm5 : BitVec 5)

theorem computes_lslsImm :
    computes (.lslsImm rd rm imm5) s rd (s.reg (low rm) <<< imm5.toNat)
      (if imm5.toNat = 0 then s.flagC else (s.reg (low rm)).getLsbD (32 - imm5.toNat)) s.flagV := by
  have hle : imm5.toNat ≤ 32 := by omega
  have hshift := shiftC_lsl (s.reg (low rm)) imm5.toNat s.flagC
  rw [decide_eq_true hle, Bool.true_and] at hshift
  exact computes_of_writeShift rfl hshift

theorem computes_lsrsImm :
    computes (.lsrsImm rd rm imm5) s rd (s.reg (low rm) >>> shiftAmount imm5)
      ((s.reg (low rm)).getLsbD (shiftAmount imm5 - 1)) s.flagV := by
  have hshift := shiftC_lsr (s.reg (low rm)) (shiftAmount imm5) s.flagC
  rw [if_neg (shiftAmount_pos imm5).ne'] at hshift
  exact computes_of_writeShift rfl hshift

theorem computes_asrsImm :
    computes (.asrsImm rd rm imm5) s rd ((s.reg (low rm)).sshiftRight (shiftAmount imm5))
      ((s.reg (low rm)).getLsbD (shiftAmount imm5 - 1)) s.flagV := by
  have hshift := shiftC_asr (s.reg (low rm)) (shiftAmount imm5) s.flagC
  rw [if_neg (shiftAmount_pos imm5).ne', if_pos (shiftAmount_le imm5)] at hshift
  exact computes_of_writeShift rfl hshift

/-- LSRS by an immediate shifts by 1 or more, so that its result is not negative (R185). -/
theorem ushiftRight_shiftAmount_msb (x : Word) : (x >>> shiftAmount imm5).msb = false := by
  rw [BitVec.msb_ushiftRight, decide_eq_true (shiftAmount_pos imm5)]
  rfl

end

/-! ## The amounts that the encoder takes -/

theorem scaledField_one_eq_ok (w : Nat) (v : Int) (f : BitVec w) :
    scaledField w 1 v = .ok f ↔ 0 ≤ v ∧ v ≤ 2 ^ w - 1 ∧ f = BitVec.ofInt w v := by
  rw [scaledField_one, ← and_assoc]
  split
  next h => simp [h, eq_comm]
  next h => exact iff_of_false (by simp) fun hf => h hf.1

/-- The amount 32 is stored as 0, which is 32 modulo `2^5` (R185, R186). -/
theorem shiftField_eq_ok (v : Int) (f : BitVec 5) :
    shiftField v = .ok f ↔ 1 ≤ v ∧ v ≤ 32 ∧ f = BitVec.ofInt 5 v := by
  by_cases h32 : v = 32
  · simp [shiftField, h32, eq_comm (a := 0#5)]
  · by_cases h0 : v = 0
    · simp [shiftField, h0]
    · rw [shiftField, if_neg h32, if_neg h0, scaledField_one_eq_ok, ← and_assoc, ← and_assoc]
      exact and_congr_left' (by omega)

/-- Two low registers pass their checks, so that the other field decides (R81). -/
theorem enc2F_low {α : Type} (r q : LowReg) (x : Except EncodeErrorKind α) (f : LowReg → LowReg → α → Instr) :
    enc2F (low r) (low q) x f = x.map (f r q) := by
  cases x <;> simp only [enc2F, lowField_low, Except.map]

/-- A single entry of two low registers and another field assembles exactly when the field does. -/
theorem assemble_of_entries {ctx : EncodeContext} {m : Mnemonic} {ops : List Operand} {α : Type} {rd rm : LowReg}
    {x : Except EncodeErrorKind α} {f : LowReg → LowReg → α → Instr}
    (hentries : entries ctx m ops = [enc2F (low rd) (low rm) x f]) (i : Instr) :
    assemble ctx m ops = .ok i ↔ ∃ b, x = .ok b ∧ i = f rd rm b := by
  rw [assemble_eq_ok, hentries, enc2F_low]
  cases x <;> simp [firstOk, Except.map, eq_comm]

section
variable (ctx : EncodeContext) (rd rm : LowReg) (v : Int) (i : Instr)

theorem assemble_lsls_imm_iff : assemble ctx .lsls [.reg (low rd), .reg (low rm), .imm v] = .ok i ↔
    0 ≤ v ∧ v ≤ 31 ∧ i = .lslsImm rd rm (BitVec.ofInt 5 v) := by
  have hentries : entries ctx .lsls [.reg (low rd), .reg (low rm), .imm v] =
    [enc2F (low rd) (low rm) (scaledField 5 1 v) .lslsImm] := rfl
  simp [assemble_of_entries hentries, scaledField_one_eq_ok, and_assoc]

/-- An entry whose immediate is that of LSRS and ASRS takes the amounts 1 to 32 (R185, R186). -/
theorem assemble_iff_of_shiftField {m : Mnemonic} {ops : List Operand} {f : LowReg → LowReg → BitVec 5 → Instr}
    (hentries : entries ctx m ops = [enc2F (low rd) (low rm) (shiftField v) f]) :
    assemble ctx m ops = .ok i ↔ 1 ≤ v ∧ v ≤ 32 ∧ i = f rd rm (BitVec.ofInt 5 v) := by
  simp [assemble_of_entries hentries, shiftField_eq_ok, and_assoc]

end

/-- Settles O42: each form by its row and by the shift of its kind, and the amounts by the range of the field. -/
theorem shiftsByImmediate : Obligations.ShiftsByImmediate := by
  intro s rd rm imm5
  simp only [← shiftAmount_eq]
  exact ⟨hasWord_lslsImm rd rm imm5, encode_lslsImm_zero rd rm, execLslsImm_zero rd rm s, computes_lslsImm s rd rm imm5,
    hasWord_regsImm5 (k := 2) 0b00001#5 imm5 rm rd .lsrsImm rfl (by decide) rfl,
    ⟨computes_lsrsImm s rd rm imm5, ushiftRight_shiftAmount_msb imm5 _⟩,
    hasWord_regsImm5 (k := 3) 0b00010#5 imm5 rm rd .asrsImm rfl (by decide) rfl, computes_asrsImm s rd rm imm5,
    fun ctx v i => ⟨assemble_lsls_imm_iff ctx rd rm v i, assemble_iff_of_shiftField ctx rd rm v i rfl,
      assemble_iff_of_shiftField ctx rd rm v i rfl⟩⟩

end Sys2Proof.Machine
end

section
/-! PROOFS. The branches without a condition (R243 to R248): B, BL, BX and BLX, each by its word, its target and its link. -/

namespace Sys2Proof.Machine

/-! ## Targets and links -/

/-- A branch offset is the signed field times 2 (R72). -/
theorem sextHalf_eq_mul {w : Nat} (imm : BitVec w) : sextHalf imm = imm.signExtend 32 * 2#32 := by
  have htoInt : (imm ++ 0#1).toInt = imm.toInt * 2 := by
    cases w with
    | zero =>
      obtain rfl := BitVec.eq_nil imm
      rfl
    | succ w => simp [BitVec.toInt_append, Int.mul_comm]
  rw [sextHalf, BitVec.signExtend, htoInt, BitVec.ofInt_mul]
  rfl

/-- A PC write after a write of LR: the target is fixed by the state before both (R246, R248). -/
theorem jumps_of_link {i : Instr} {s : State} {v target : Word}
    (h : exec i s = .next ((s.setReg LR v).writePC target)) : ∃ t, jumps i s t target [LR] ∧ t.reg LR = v := by
  refine ⟨_, ⟨h, ?_, rfl, rfl, fun r hr => ?_, fun _ => rfl, ⟨rfl, rfl, rfl⟩, rfl⟩, by simp⟩
  · rw [reg_writePC, if_pos rfl, clearBit0_eq_shifts]
  · obtain ⟨hPC, hLR⟩ : r ≠ PC ∧ r ≠ LR := by simpa using hr
    rw [reg_writePC, if_neg hPC.symm, reg_setReg, if_neg hLR.symm]

/-! ## Words -/

/-- An 11-bit offset after five fixed bits. -/
theorem hasWord_b (imm11 : BitVec 11) : hasWord (.b imm11) (.one (pack (0b11100#5 ++ imm11))) :=
  hasWord_of_row (k := 71) 0b11100#5 imm11 rfl rfl (by decide) (by decide) rfl
    (congrArg Instr.b (field_pack_last 0b11100#5 imm11 (by decide)))

/-- BL's offset is spread over its two halfwords (R244). -/
theorem hasWord_bl (sign : BitVec 1) (imm10 : BitVec 10) (imm11 : BitVec 11) :
    hasWord (.bl sign imm10 imm11) (.two (pack (0b11110#5 ++ sign ++ imm10)) (pack (0b11111#5 ++ imm11))) := by
  have hfirst : pack (0b11110#5 ++ sign ++ imm10) &&& 0xF800#16 = 0xF000#16 := by
    rw [pack_append_assoc]
    exact pack_and_highMask 0b11110#5 (sign ++ imm10)
  have hsecond : pack (0b11111#5 ++ imm11) &&& 0xF800#16 = 0xF800#16 := pack_and_highMask 0b11111#5 imm11
  refine ⟨rfl, ?_⟩
  rw [decode, acceptsBl, hfirst, hsecond, field_pack_middle 0b11110#5 sign imm10 (by decide),
    field_pack_last (0b11110#5 ++ sign) imm10 (by decide), field_pack_last 0b11111#5 imm11 (by decide)]
  rfl

section
variable (op : BitVec 9) (rm : RegNum)

/-- A word of the branch-and-exchange layout as a number: nine bits, a register, and the low bits 2:0. -/
theorem pack_branchExchange_toNat (k : BitVec 3) :
    (pack (op ++ rm ++ k)).toNat = op.toNat * 2 ^ 7 + rm.toNat * 2 ^ 3 + k.toNat := by
  have happend : (op ++ rm ++ k).toNat = op.toNat * 2 ^ 7 + rm.toNat * 2 ^ 3 + k.toNat := by
    rw [BitVec.toNat_append, ← Nat.shiftLeft_add_eq_or_of_lt k.isLt, BitVec.toNat_append,
      ← Nat.shiftLeft_add_eq_or_of_lt rm.isLt, Nat.shiftLeft_eq, Nat.shiftLeft_eq]
    omega
  rw [pack, BitVec.setWidth_eq, happend]

/-- BX and BLX: a register number after nine fixed bits, and bits 2:0 clear. -/
theorem hasWord_branchExchange {k : Nat} {form layout : String} (f : RegNum → Instr)
    (hk : catalog[k]? = some ⟨form, layout, 0xFF87#16, pack (op ++ 0#7), fun h => f (field h 3 4)⟩) (hne : k ≠ 1)
    (hword : encode (f rm) = .one (pack (op ++ rm ++ 0b000#3))) :
    hasWord (f rm) (.one (pack (op ++ rm ++ 0b000#3))) := by
  have hbits : (pack (op ++ 0#7)).toNat = op.toNat * 2 ^ 7 := by
    rw [show 0#7 = 0#4 ++ 0#3 by decide, ← pack_append_assoc, pack_branchExchange_toNat]
    rfl
  have haccepts : pack (op ++ rm ++ 0b000#3) &&& 0xFF87#16 = pack (op ++ 0#7) := by
    rw [and_branchExchangeMask_eq_iff _ _ (by omega), hbits, pack_branchExchange_toNat]
    simp only [BitVec.toNat_ofNat]
    omega
  refine ⟨hword, (decode_of_accepts k _ _ hk hne ((accepts_iff _ _).mpr haccepts)).trans ?_⟩
  exact congrArg (fun r => Except.ok (f r)) (field_pack_middle op rm 0b000#3 (by decide))

/-- Nonzero low bits leave the words of BX and BLX in the gap that R75 lists. -/
theorem decode_branchExchange_undefined (hop : op.toNat / 2 = 0x47) (k : BitVec 3) (hk : k ≠ 0#3) :
    ∃ r, decode (.one (pack (op ++ rm ++ k))) = .error r := by
  have hpos : k.toNat ≠ 0 := fun h => hk (BitVec.eq_of_toNat_eq h)
  rw [decode_one_eq_error, exists_accepts_iff, pack_branchExchange_toNat]
  omega

end

/-- Settles O51: each form by its word, and by the PC write that its meaning ends in, after a write of LR for BL and BLX. -/
theorem unconditionalBranches : Obligations.UnconditionalBranches := by
  intro s imm11 sign imm10 rm
  rw [← sextHalf_eq_mul imm11, ← sextHalf_eq_mul (sign ++ imm10 ++ imm11)]
  exact ⟨hasWord_b imm11, jumps_of_exec rfl, hasWord_bl sign imm10 imm11, jumps_of_link rfl,
    hasWord_branchExchange (k := 31) 0b010001110#9 rm .bx rfl (by decide) rfl, jumps_of_exec rfl,
    hasWord_branchExchange (k := 32) 0b010001111#9 rm .blx rfl (by decide) rfl, jumps_of_link rfl,
    fun k hk => ⟨decode_branchExchange_undefined 0b010001110#9 rm rfl k hk,
      decode_branchExchange_undefined 0b010001111#9 rm rfl k hk⟩⟩

end Sys2Proof.Machine
end

section
/-! PROOFS. The blocks of PUSH and POP (R230 to R232): the place of a register in a list, the addresses of the words, and the
first access of a block that faults (R267). -/

namespace Sys2Proof.Machine

/-! ## Register lists -/

/-- A chosen number below `n` stands, among all of them, at the place that the chosen numbers below it leave. -/
theorem filter_range_getElem?_of_pos (p : Nat → Bool) (n k : Nat) (hk : k < n) (hp : p k = true) :
    ((List.range n).filter p)[((List.range k).filter p).length]? = some k := by
  obtain ⟨m, rfl⟩ : ∃ m, n = k + (m + 1) := ⟨n - k - 1, by omega⟩
  simp [List.range_add, List.range_succ_eq_map, hp]

theorem filter_range_getElem? (p : Nat → Bool) (n j k : Nat) :
    ((List.range n).filter p)[j]? = some k ↔ k < n ∧ p k = true ∧ ((List.range k).filter p).length = j := by
  constructor
  · intro h
    obtain ⟨hk, hp⟩ := List.mem_filter.mp (List.mem_of_getElem? h)
    have hplace := filter_range_getElem?_of_pos p n k (List.mem_range.mp hk) hp
    obtain ⟨hlt, -⟩ := List.getElem?_eq_some_iff.mp hplace
    exact ⟨List.mem_range.mp hk, hp, (List.getElem?_inj hlt (List.nodup_range.filter p)).mp (hplace.trans h.symm)⟩
  · rintro ⟨hk, hp, rfl⟩
    exact filter_range_getElem?_of_pos p n k hk hp

/-- The listed registers are R0 to R7 at the 1 bits of the list, ascending (R230). -/
theorem listedRegs_eq_map (list : BitVec 8) :
    listedRegs list = ((List.range 8).filter fun k => list.getLsbD k).map (BitVec.ofNat 4) := by
  have hregs : [0#4, 1#4, 2#4, 3#4, 4#4, 5#4, 6#4, 7#4] = (List.range 8).map (BitVec.ofNat 4) := rfl
  rw [listedRegs, hregs, List.filter_map]
  refine congrArg (List.map _) (List.filter_congr fun k hk => ?_)
  have hlt : k < 8 := List.mem_range.mp hk
  simp [Nat.mod_eq_of_lt (show k < 16 by omega)]

theorem listedRegs_length (list : BitVec 8) : (listedRegs list).length = listedBelow list 8 := by
  rw [listedRegs_eq_map, List.length_map, listedBelow]

theorem transferCount_eq_listCount (extra : Bool) (list : BitVec 8) :
    transferCount extra list = listCount extra list := by
  rw [transferCount, listedRegs_length, listCount]

/-- A listed register stands at the place that the listed registers below it leave (R230). -/
theorem listedRegs_getElem? (list : BitVec 8) (j : Nat) (r : RegNum) : (listedRegs list)[j]? = some r ↔
    ∃ q : LowReg, r = low q ∧ list.getLsbD q.toNat = true ∧ listedBelow list q.toNat = j := by
  simp only [listedRegs_eq_map, List.getElem?_map, Option.map_eq_some_iff, filter_range_getElem?]
  constructor
  · rintro ⟨k, ⟨hk, hbit, hplace⟩, rfl⟩
    have hq : (BitVec.ofNat 3 k).toNat = k := by simp; omega
    refine ⟨BitVec.ofNat 3 k, ?_, by rwa [hq], by rwa [hq]⟩
    apply BitVec.eq_of_toNat_eq
    simp [low, hq]
  · rintro ⟨q, rfl, hbit, hplace⟩
    refine ⟨q.toNat, ⟨q.isLt, hbit, hplace⟩, ?_⟩
    apply BitVec.eq_of_toNat_eq
    simp [low]

theorem mem_listedRegs (list : BitVec 8) (r : RegNum) :
    r ∈ listedRegs list ↔ ∃ q : LowReg, r = low q ∧ list.getLsbD q.toNat = true := by
  simp only [List.mem_iff_getElem?, listedRegs_getElem?]
  tauto

/-- Word `j` of a PUSH, in the order of the list and then LR (R231). -/
theorem pushedWord_of_getElem? (s : State) (lr : Bool) (list : BitVec 8) (j : Nat) (v : Word)
    (h : (s.pushed lr list)[j]? = some v) : pushedWord s lr list j v := by
  rw [State.pushed, List.getElem?_append] at h
  split at h
  case isTrue hj =>
    obtain ⟨r, hr, rfl⟩ := Option.map_eq_some_iff.mp (List.getElem?_map ▸ h)
    obtain ⟨q, rfl, hbit, hplace⟩ := (listedRegs_getElem? list j r).mp hr
    exact .inl ⟨q, hbit, hplace, rfl⟩
  case isFalse hj =>
    rw [List.length_map, listedRegs_length] at h hj
    cases lr
    case false => simp at h
    case true =>
      obtain ⟨hlast, hv⟩ := List.getElem?_eq_some_iff.mp h
      simp only [if_true, List.length_singleton, List.getElem_singleton] at hlast hv
      exact .inr ⟨rfl, by omega, hv.symm⟩

theorem pushed_length (s : State) (lr : Bool) (list : BitVec 8) : (s.pushed lr list).length = listCount lr list := by
  rw [← transferCount_eq_listCount]
  cases lr <;> simp [State.pushed, transferCount]

/-! ## The addresses of a block -/

theorem wordAddrs_eq_map (n : Nat) (base : Word) : wordAddrs n base = (List.range n).map (wordAddr base) := by
  apply List.ext_getElem?
  intro k
  by_cases hk : k < n
  · rw [wordAddrs_getElem? n base k hk, List.getElem?_map, List.getElem?_range hk]
    rfl
  · rw [List.getElem?_eq_none (by rw [wordAddrs_length]; omega), List.getElem?_eq_none (by simpa using hk)]

theorem mem_wordAddrs (n : Nat) (base a : Word) : a ∈ wordAddrs n base ↔ ∃ j < n, wordAddr base j = a := by
  simp [wordAddrs_eq_map]

/-- Where a block is cut, the addresses before the cut are those of a shorter block, and the next one is that of its end. -/
theorem wordAddrs_eq_append_cons (n : Nat) (base a : Word) (ok rest : List Word)
    (h : wordAddrs n base = ok ++ a :: rest) :
    ok.length < n ∧ ok = wordAddrs ok.length base ∧ a = wordAddr base ok.length := by
  have hlen := congrArg List.length h
  rw [wordAddrs_length, List.length_append, List.length_cons] at hlen
  have hlt : ok.length < n := by omega
  have hok : ok = (wordAddrs n base).take ok.length := by simp [h]
  have ha : (wordAddrs n base)[ok.length]? = some a := by simp [h]
  rw [wordAddrs_getElem? n base _ hlt] at ha
  refine ⟨hlt, ?_, (Option.some.inj ha).symm⟩
  rwa [wordAddrs_eq_map, ← List.map_take, List.take_range, Nat.min_eq_left hlt.le, ← wordAddrs_eq_map] at hok

/-! ## The first access that faults -/

section
variable (s : State) (acc : Access) (base : Word) (n k : Nat) (f : FaultRecord)

/-- No access of a block faults. -/
def noFault : Prop := ∀ j < n, s.accessFault acc .word (wordAddr base j) = none

/-- Access `k` of a block is the first that faults, with this fault (R267). -/
def firstFault : Prop :=
  k < n ∧ s.accessFault acc .word (wordAddr base k) = some f ∧
    ∀ j < k, s.accessFault acc .word (wordAddr base j) = none

theorem noFault_iff : noFault s acc base n ↔ ∀ a ∈ wordAddrs n base, s.accessFault acc .word a = none := by
  simp [noFault, mem_wordAddrs]

end

variable {s : State} {acc : Access} {base : Word} {n k : Nat} {f : FaultRecord}

/-- Where an access of a block faults, its accesses are cut before the first that does. -/
theorem firstFault_of_cut {a : Word} {ok rest : List Word} (hcut : wordAddrs n base = ok ++ a :: rest)
    (hok : ∀ x ∈ ok, s.accessFault acc .word x = none) (ha : s.accessFault acc .word a = some f) :
    firstFault s acc base n ok.length f ∧ ok = wordAddrs ok.length base := by
  obtain ⟨hlt, hprefix, rfl⟩ := wordAddrs_eq_append_cons n base a ok rest hcut
  rw [hprefix] at hok
  exact ⟨⟨hlt, ha, (noFault_iff s acc base _).mpr hok⟩, hprefix⟩

/-! ## What PUSH and POP do at a fault -/

theorem pushBase_eq_pushAddr (s : State) (lr : Bool) (list : BitVec 8) :
    s.pushBase lr list = pushAddr s (listCount lr list) := by
  rw [← transferCount_eq_listCount]
  rfl

theorem push_of_empty (s : State) (lr : Bool) (list : BitVec 8) (h : listCount lr list = 0) :
    s.push lr list = s.raise (.unpredictable s.pc 0xB400#16) := if_pos ((transferCount_eq_listCount lr list).trans h)

theorem pop_of_empty (s : State) (pc : Bool) (list : BitVec 8) (h : listCount pc list = 0) :
    s.pop pc list = s.raise (.unpredictable s.pc 0xBC00#16) := if_pos ((transferCount_eq_listCount pc list).trans h)

/-- A PUSH of a list that is not empty raises no fault, or it keeps some of the words before its first faulting access and
takes that fault (R265, R267). -/
theorem push_block_cases (s : State) (lr : Bool) (list : BitVec 8) (hn : listCount lr list ≠ 0) :
    (noFault s .write (pushAddr s (listCount lr list)) (listCount lr list) ∧ (s.push lr list).fault = s.fault) ∨
    ∃ k f, firstFault s .write (pushAddr s (listCount lr list)) (listCount lr list) k f ∧
      s.push lr list =
        (State.storeSome ((wordAddrs k (pushAddr s (listCount lr list))).zip (s.pushed lr list)) s).raise f := by
  have hcases := push_cases s lr list
  rw [transferCount_eq_listCount, pushBase_eq_pushAddr] at hcases
  obtain ⟨hempty, -⟩ | ⟨-, hnone, h⟩ | ⟨-, ok, a, rest, f, hcut, hok, ha, h⟩ := hcases
  · exact absurd hempty hn
  · exact .inl ⟨(noFault_iff _ _ _ _).mpr hnone, by rw [h, setReg_fault, storeWords_eq]⟩
  · obtain ⟨hfirst, hprefix⟩ := firstFault_of_cut hcut hok ha
    exact .inr ⟨ok.length, f, hfirst, hprefix ▸ h⟩

theorem loadWords_state {as vs : List Word} {s s1 : State} (h : State.loadWords as s = (vs, s1)) :
    s1 = { s with draws := s1.draws } := by
  have heq := loadWords_eq as s
  rwa [h] at heq

theorem setRegs_fault (l : List (RegNum × Word)) (s : State) : (State.setRegs l s).fault = s.fault := by
  rw [setRegs_eq]

/-- A POP of a list that is not empty raises no fault, or it keeps some of the registers loaded before its first faulting
access and takes that fault (R265, R267). -/
theorem pop_block_cases (s : State) (pc : Bool) (list : BitVec 8) (hn : listCount pc list ≠ 0) :
    (noFault s .read (s.reg SP) (listCount pc list) ∧ (s.pop pc list).fault = s.fault) ∨
    ∃ k f, firstFault s .read (s.reg SP) (listCount pc list) k f ∧
      ∃ vs s1, State.loadWords (wordAddrs k (s.reg SP)) s = (vs, s1) ∧
        s.pop pc list = (State.setSome ((listedRegs list).zip vs) s1).raise f := by
  have hcases := pop_cases s pc list
  rw [transferCount_eq_listCount] at hcases
  obtain ⟨hempty, -⟩ | ⟨-, hnone, vs, s1, hload, h⟩ | ⟨-, ok, a, rest, f, hcut, hok, ha, vs, s1, hload, h⟩ := hcases
  · exact absurd hempty hn
  · have hs1 : s1.fault = s.fault := by rw [loadWords_state hload]
    refine .inl ⟨(noFault_iff _ _ _ _).mpr hnone, ?_⟩
    rw [h]
    cases pc <;> simp [setRegs_fault, hs1]
  · obtain ⟨hfirst, hprefix⟩ := firstFault_of_cut hcut hok ha
    exact .inr ⟨ok.length, f, hfirst, vs, s1, hprefix ▸ hload, h⟩

/-- A PUSH of a list that is not empty that records a fault records the first of its block (R265, R267). -/
theorem push_faulting {lr : Bool} {list : BitVec 8} (hs : s.fault = none) (hf : (s.push lr list).fault = some f)
    (hn : listCount lr list ≠ 0) :
    ∃ k, firstFault s .write (pushAddr s (listCount lr list)) (listCount lr list) k f ∧
      s.push lr list =
        (State.storeSome ((wordAddrs k (pushAddr s (listCount lr list))).zip (s.pushed lr list)) s).raise f := by
  obtain ⟨-, h⟩ | ⟨k, g, hfirst, h⟩ := push_block_cases s lr list hn
  · rw [h, hs] at hf
    cases hf
  · obtain rfl : g = f := by
      rw [h] at hf
      exact Option.some.inj hf
    exact ⟨k, hfirst, h⟩

/-- A POP of a list that is not empty that records a fault records the first of its block (R265, R267). -/
theorem pop_faulting {pc : Bool} {list : BitVec 8} (hs : s.fault = none) (hf : (s.pop pc list).fault = some f)
    (hn : listCount pc list ≠ 0) :
    ∃ k, firstFault s .read (s.reg SP) (listCount pc list) k f ∧
      ∃ vs s1, State.loadWords (wordAddrs k (s.reg SP)) s = (vs, s1) ∧
        s.pop pc list = (State.setSome ((listedRegs list).zip vs) s1).raise f := by
  obtain ⟨-, h⟩ | ⟨k, g, hfirst, vs, s1, hload, h⟩ := pop_block_cases s pc list hn
  · rw [h, hs] at hf
    cases hf
  · obtain rfl : g = f := by
      rw [h] at hf
      exact Option.some.inj hf
    exact ⟨k, hfirst, vs, s1, hload, h⟩

end Sys2Proof.Machine
end

section
/-! PROOFS. Taking a fault (R264): whatever raises one, in the fetch, the decoder or the execute step, it is recorded with the
address of the instruction, and only a PUSH can have changed memory by then and only a POP a register. -/

namespace Sys2Proof.Machine

/-! ## The address of a fault -/

theorem accessFault_address {s : State} {acc : Access} {w : Width} {a : Word} {f : FaultRecord}
    (h : s.accessFault acc w a = some f) : f.address = s.pc := by
  obtain ⟨-, hf⟩ | ⟨-, -, hf⟩ | ⟨-, -, hf⟩ := accessFault_cases s acc w a <;> rw [h] at hf <;> cases hf <;> rfl

theorem undefinedFault_address (s : State) (op : Opcode) : (s.undefinedFault op).address = s.pc := by
  cases op <;> rfl

theorem fetchHalf_error {s : State} {a : Word} {f : FaultRecord} (h : s.fetchHalf a = .error f) :
    s.accessFault .fetch .half a = some f := by
  unfold State.fetchHalf at h
  split at h
  next g hg =>
    cases h
    exact memRead_error s .fetch .half a f hg
  next => cases h

theorem fetchOp_error_address {s s1 : State} {f : FaultRecord} (h : s.fetchOp = (s1, .error f)) : f.address = s.pc := by
  unfold State.fetchOp at h
  split at h
  next g hg =>
    cases h
    exact accessFault_address (fetchHalf_error hg)
  next h1 s2 h2 =>
    have hs2 := (fetchHalf_ok _ _ _ _ h2).2
    split at h
    next =>
      split at h
      next g hg =>
        cases h
        rw [accessFault_address (fetchHalf_error hg), hs2]
        rfl
      next => cases h
    next => cases h

/-! ## The instructions that make one access or none -/

theorem exec_of_loadOf {i : Instr} {s : State} {rt : LowReg} {w : Width} {ea : Word} (h : loadOf i s = some (rt, w, ea)) :
    ∃ e, exec i s = .next (s.load rt w e ea) := by
  cases i
  case ldrImm | ldrbImm | ldrhImm | ldrReg | ldrbReg | ldrhReg | ldrsbReg | ldrshReg | ldrSp | ldrLit =>
    cases h
    exact ⟨_, rfl⟩
  all_goals cases h

theorem exec_of_storeOf {i : Instr} {s : State} {rt : LowReg} {w : Width} {ea : Word}
    (h : storeOf i s = some (rt, w, ea)) : exec i s = .next (s.store rt w ea) := by
  cases i
  case strImm | strbImm | strhImm | strReg | strbReg | strhReg | strSp =>
    cases h
    rfl
  all_goals cases h

theorem branchIf_fault (s : State) (c : Cond) (imm8 : BitVec 8) : (s.branchIf c imm8).fault = s.fault := by
  obtain ⟨-, h⟩ | ⟨-, h⟩ := branchIf_cases s c imm8 <;> simp [h]

theorem setHigh_fault (s : State) (r : RegNum) (v : Word) : (s.setHigh r v).fault = s.fault := by
  by_cases h : r = PC
  · rw [h, setHigh_pc, writePC_fault]
  · rw [setHigh_of_ne s r v h, setReg_fault]

/-- An instruction that makes no access of memory raises no fault. -/
theorem exec_fault_kept {i : Instr} {s t : State} (hl : loadOf i s = none) (hst : storeOf i s = none)
    (hb : blockOf i s = none) (h : exec i s = .next t) : t.fault = s.fault := by
  cases i
  case ldrImm | ldrbImm | ldrhImm | ldrReg | ldrbReg | ldrhReg | ldrsbReg | ldrshReg | ldrSp | ldrLit => cases hl
  case strImm | strbImm | strhImm | strReg | strbReg | strhReg | strSp => cases hst
  case push | pop => cases hb
  case beq | bne | bcs | bcc | bmi | bpl | bvs | bvc | bhi | bls | bge | blt | bgt | ble | bal =>
    obtain rfl := Host.Outcome.next.inj h
    exact branchIf_fault _ _ _
  case addHi | movHi =>
    obtain rfl := Host.Outcome.next.inj h
    exact setHigh_fault _ _ _
  all_goals
    obtain rfl := Host.Outcome.next.inj h
    rfl

section
variable {s : State} {f : FaultRecord} (hs : s.fault = none)
include hs

theorem load_eq_raise {rt : LowReg} {w : Width} {e : LoadExtend} {ea : Word} (hf : (s.load rt w e ea).fault = some f) :
    s.load rt w e ea = s.raise f ∧ f.address = s.pc := by
  obtain ⟨g, hg, h⟩ | ⟨v, s1, hread, h⟩ := load_cases s rt w e ea
  · rw [h] at hf ⊢
    cases hf
    exact ⟨rfl, accessFault_address hg⟩
  · obtain ⟨-, -, -, hs1⟩ := memRead_ok _ _ _ _ _ _ hread
    rw [h, setReg_fault, hs1, hs] at hf
    cases hf

theorem store_eq_raise {rt : LowReg} {w : Width} {ea : Word} (hf : (s.store rt w ea).fault = some f) :
    s.store rt w ea = s.raise f ∧ f.address = s.pc := by
  obtain ⟨g, hg, h⟩ | ⟨-, h⟩ := store_cases s rt w ea
  · rw [h] at hf ⊢
    cases hf
    exact ⟨rfl, accessFault_address hg⟩
  · rw [h, writeBytes_eq, hs] at hf
    cases hf

/-- An instruction other than PUSH and POP that raises a fault does nothing else (R265). -/
theorem exec_eq_raise {i : Instr} {t : State} (hi : blockOf i s = none) (h : exec i s = .next t)
    (hf : t.fault = some f) : t = s.raise f ∧ f.address = s.pc := by
  cases hl : loadOf i s with
  | some access =>
    obtain ⟨rt, w, ea⟩ := access
    obtain ⟨e, hload⟩ := exec_of_loadOf hl
    obtain rfl := Host.Outcome.next.inj (h.symm.trans hload)
    exact load_eq_raise hs hf
  | none =>
    cases hst : storeOf i s with
    | some access =>
      obtain ⟨rt, w, ea⟩ := access
      obtain rfl := Host.Outcome.next.inj (h.symm.trans (exec_of_storeOf hst))
      exact store_eq_raise hs hf
    | none =>
      rw [exec_fault_kept hl hst hi h, hs] at hf
      cases hf

/-- A PUSH that raises a fault has at most stored words (R265). -/
theorem push_eq_raise {lr : Bool} {list : BitVec 8} (hf : (s.push lr list).fault = some f) :
    f.address = s.pc ∧ ∃ l, s.push lr list = (State.storeSome l s).raise f := by
  by_cases hn : listCount lr list = 0
  · have h := push_of_empty s lr list hn
    rw [h] at hf ⊢
    cases hf
    exact ⟨rfl, [], rfl⟩
  · obtain ⟨k, ⟨-, hg, -⟩, h⟩ := push_faulting hs hf hn
    exact ⟨accessFault_address hg, _, h⟩

/-- A POP that raises a fault has at most loaded listed registers (R265). -/
theorem pop_eq_raise {pc : Bool} {list : BitVec 8} (hf : (s.pop pc list).fault = some f) :
    f.address = s.pc ∧ ∃ l s1, s1 = { s with draws := s1.draws } ∧ (∀ r ∈ l.map Prod.fst, r ∈ listedRegs list) ∧
      s.pop pc list = (State.setSome l s1).raise f := by
  by_cases hn : listCount pc list = 0
  · have h := pop_of_empty s pc list hn
    rw [h] at hf ⊢
    cases hf
    exact ⟨rfl, [], s, rfl, by simp, rfl⟩
  · obtain ⟨k, ⟨-, hg, -⟩, vs, s1, hload, h⟩ := pop_faulting hs hf hn
    refine ⟨accessFault_address hg, _, s1, loadWords_state hload, fun r hr => ?_, h⟩
    obtain ⟨p, hp, rfl⟩ := List.mem_map.mp hr
    exact (List.of_mem_zip hp).1

end

/-! ## The state after a fault -/

/-- What raising a fault does whatever raises it (R264): the fault is recorded with the address of the instruction, the core
halts, and PC, APSR and the parameters are as they were. -/
def takesFault (s t : State) : Prop :=
  (∃ f, t.fault = some f ∧ f.address = s.pc) ∧ t.run = .halted ∧ t.pc = s.pc ∧ t.apsr = s.apsr ∧ t.params = s.params

theorem takesFault_raise {s : State} {f : FaultRecord} (ha : f.address = s.pc) : takesFault s (s.raise f) :=
  ⟨⟨f, rfl, ha⟩, rfl, rfl, rfl, rfl⟩

theorem storeSome_reg (l : List (Word × Word)) (s : State) (r : RegNum) : (State.storeSome l s).reg r = s.reg r := by
  rw [storeSome_eq]
  rfl

/-- An instruction's fault is taken, and before it only a PUSH can have changed memory and only a POP a register of its list. -/
theorem exec_takesFault {i : Instr} {s t : State} (hs : s.fault = none) (h : exec i s = .next t) (ht : t.fault ≠ none) :
    takesFault s t ∧ (t.mem ≠ s.mem → ∃ m list, i = .push m list) ∧
    ∀ r, t.reg r ≠ s.reg r → ∃ p list, i = .pop p list ∧ r ∈ listedRegs list := by
  obtain ⟨f, hf⟩ := Option.ne_none_iff_exists'.mp ht
  cases hb : blockOf i s with
  | none =>
    obtain ⟨rfl, ha⟩ := exec_eq_raise hs hb h hf
    exact ⟨takesFault_raise ha, fun hm => absurd rfl hm, fun r hr => absurd rfl hr⟩
  | some block =>
    cases i
    case push m list =>
      obtain rfl := Host.Outcome.next.inj h
      obtain ⟨ha, l, hl⟩ := push_eq_raise hs hf
      rw [hl]
      refine ⟨?_, fun _ => ⟨m, list, rfl⟩, fun r hr => absurd (storeSome_reg l s r) hr⟩
      rw [storeSome_eq]
      exact takesFault_raise ha
    case pop p list =>
      obtain rfl := Host.Outcome.next.inj h
      obtain ⟨ha, l, s1, hs1, hregs, hl⟩ := pop_eq_raise hs hf
      have hkept : ∀ r, r ∉ listedRegs list → (State.setSome l s1).reg r = s.reg r := fun r hr => by
        rw [setSome_reg l s1 r fun hmem => hr (hregs r hmem), hs1]
        rfl
      have hPC : PC ∉ listedRegs list := fun hmem => absurd (listedRegs_low list PC hmem) (by decide)
      rw [hl]
      refine ⟨⟨⟨f, rfl, ha⟩, rfl, hkept PC hPC, ?_, ?_⟩, ?_, fun r hr => ⟨p, list, rfl, ?_⟩⟩
      · rw [raise_apsr, setSome_eq, hs1]
      · rw [raise_params, setSome_eq, hs1]
      · rw [raise_mem, setSome_mem, hs1]
        exact absurd rfl
      · exact of_not_not fun hmem => hr (hkept r hmem)
    all_goals cases hb

/-- The fetch and the clearing of the mark leave what a fault is told of. -/
theorem fetchOp_kept {s s1 : State} {res : Except FaultRecord Opcode} (h : s.beginCycle.fetchOp = (s1, res)) :
    s1.fault = s.fault ∧ s1.apsr = s.apsr ∧ s1.params = s.params ∧ s1.mem = s.mem ∧ ∀ r, s1.reg r = s.reg r := by
  rw [fetchOp_state _ _ _ h]
  exact ⟨rfl, rfl, rfl, rfl, fun _ => rfl⟩

theorem retire_fault (s : State) (len : Nat) : (s.retire len).fault = s.fault := by
  obtain ⟨-, h⟩ | ⟨-, -, h⟩ | ⟨-, -, h⟩ := retire_cases s len <;> simp [h]

/-- After a fault PC is not advanced (R264). -/
theorem retire_of_fault (s : State) (len : Nat) (h : s.fault ≠ none) : s.retire len = s :=
  if_pos (Option.isSome_iff_ne_none.mpr h)

/-- What a cycle that raises a fault does once it has fetched: it takes a fault of the fetch or of the decoder, with nothing of
an instruction performed, or it ends as the execute step of its instruction does. -/
def faultsAfterFetch (s1 : State) (res : Except FaultRecord Opcode) (t : State) : Prop :=
  (∃ f, f.address = s1.pc ∧ t = s1.raise f) ∨ ∃ op i, res = .ok op ∧ decode op = .ok i ∧ exec i s1 = .next t

theorem step_faultsAfterFetch {s t : State} (hs : s.fault = none) (h : step s = .next t) (ht : t.fault ≠ none) :
    ∃ s1 res, s.beginCycle.fetchOp = (s1, res) ∧ faultsAfterFetch s1 res t := by
  have hnext {u : State} (hu : step s = .next u) : t = u := Host.Outcome.next.inj (h.symm.trans hu)
  obtain ⟨-, hst⟩ | ⟨-, -, hst⟩ | ⟨-, -, ⟨s1, f, hf, hst⟩ | ⟨s1, op, r, hf, -, hst⟩ | ⟨s1, op, i, hf, hdec, hst⟩⟩ :=
    step_cases s
  · exact absurd (hnext hst ▸ hs) ht
  · exact absurd (hnext hst ▸ hs) ht
  · obtain ⟨-, -, -, -, hregs⟩ := fetchOp_kept hf
    exact ⟨s1, _, hf, .inl ⟨f, (fetchOp_error_address hf).trans (hregs PC).symm, hnext hst⟩⟩
  · exact ⟨s1, _, hf, .inl ⟨_, undefinedFault_address s1 op, hnext hst⟩⟩
  · obtain ⟨s2, hexec, -⟩ := exec_withApsrLow s1 0#28 i
    have ht2 : t = s2.retire op.len := hnext (hst s2 hexec)
    rw [ht2, retire_fault] at ht
    rw [retire_of_fault s2 _ ht] at ht2
    exact ⟨s1, _, hf, .inr ⟨op, i, rfl, hdec, ht2 ▸ hexec⟩⟩

theorem takesFault_after_fetch {s1 t : State} {res : Except FaultRecord Opcode} (hs1 : s1.fault = none)
    (h : faultsAfterFetch s1 res t) (ht : t.fault ≠ none) :
    takesFault s1 t ∧ (t.mem ≠ s1.mem → ∃ op m list, res = .ok op ∧ decode op = .ok (.push m list)) ∧
    ∀ r, t.reg r ≠ s1.reg r → ∃ op p list, res = .ok op ∧ decode op = .ok (.pop p list) ∧ r ∈ listedRegs list := by
  obtain ⟨f, ha, rfl⟩ | ⟨op, i, rfl, hdec, hexec⟩ := h
  · exact ⟨takesFault_raise ha, fun hm => absurd rfl hm, fun r hr => absurd rfl hr⟩
  · obtain ⟨htaken, hpush, hpop⟩ := exec_takesFault hs1 hexec ht
    refine ⟨htaken, fun hm => ?_, fun r hr => ?_⟩
    · obtain ⟨m, list, rfl⟩ := hpush hm
      exact ⟨op, m, list, rfl, hdec⟩
    · obtain ⟨p, list, rfl, hlisted⟩ := hpop r hr
      exact ⟨op, p, list, rfl, hdec, hlisted⟩

/-- Settles O27: a fault of the fetch or of the decoder is taken with nothing performed, and one of the execute step leaves
what its instruction leaves. -/
theorem takingAFault : Obligations.TakingAFault := by
  intro s t hs h ht
  obtain ⟨s1, res, hfetch, hfaults⟩ := step_faultsAfterFetch hs h ht
  obtain ⟨hfault, hapsr, hparams, hmem, hregs⟩ := fetchOp_kept hfetch
  obtain ⟨⟨⟨f, hf, ha⟩, hrun, hpc, htapsr, htparams⟩, hpush, hpop⟩ :=
    takesFault_after_fetch (hfault.trans hs) hfaults ht
  refine ⟨⟨f, hf, ha.trans (hregs PC)⟩, hrun, hpc.trans (hregs PC), htapsr.trans hapsr, htparams.trans hparams,
    ⟨_, hostExecute_of_fault t (by simp [hrun]) ht⟩, fun hm => ?_, fun r hr => ?_⟩
  · obtain ⟨op, m, list, rfl, hdec⟩ := hpush (hmem ▸ hm)
    exact ⟨s1, op, m, list, hfetch, hdec⟩
  · obtain ⟨op, p, list, rfl, hdec, hlisted⟩ := hpop r (hregs r ▸ hr)
    exact ⟨s1, op, p, list, hfetch, hdec, (mem_listedRegs list r).mp hlisted⟩

end Sys2Proof.Machine
end

section
/-! PROOFS. What a faulting PUSH or POP leaves (R265): each word stored or register loaded before the fault holds its old or its
new value, and everything else is as it was. -/

namespace Sys2Proof.Machine

/-! ## The words of a block do not overlap -/

theorem byteAddr_wordAddr (base : Word) (j i : Nat) : byteAddr (wordAddr base j) i = byteAddr base (4 * j + i) :=
  byteAddr_add base (4 * j) i

/-- The two words have no byte in common. -/
def apart (a b : Word) : Prop := ∀ i < 4, ∀ k < 4, byteAddr a i ≠ byteAddr b k

/-- The words of a block that the address space holds lie apart. -/
theorem wordAddrs_pairwise_apart (n : Nat) (base : Word) (hn : 4 * n ≤ 2 ^ 32) : (wordAddrs n base).Pairwise apart := by
  rw [wordAddrs_eq_map, List.pairwise_map, List.pairwise_iff_getElem]
  intro j k hj hk hjk i hi m hm heq
  simp only [List.getElem_range, byteAddr_wordAddr] at heq
  simp only [List.length_range] at hj hk
  have hnat := congrArg BitVec.toNat heq
  rw [byteAddr_toNat, byteAddr_toNat] at hnat
  omega

/-! ## The stores before a fault -/

/-- Storing a word or leaving it, as the free choice says (R265). -/
def State.storeOrKeep (s : State) (a v : Word) : State :=
  { s.nextDraw with mem := if Config.keepsNew s.draws then (State.writeBytes (splitLE 4 v) a s).mem else s.mem }

theorem storeSome_cons (a v : Word) (l : List (Word × Word)) (s : State) :
    State.storeSome ((a, v) :: l) s = State.storeSome l (s.storeOrKeep a v) := rfl

section
variable (s : State) (a v x : Word)

theorem storeOrKeep_writable : (s.storeOrKeep a v).writable x = s.writable x := rfl

/-- The choice is made for the word as a whole. -/
theorem peek_storeOrKeep_cases : (∀ x, (s.storeOrKeep a v).peek x = s.peek x) ∨
    ∀ x, (s.storeOrKeep a v).peek x = (State.writeBytes (splitLE 4 v) a s).peek x := by
  cases h : Config.keepsNew s.draws
  · exact .inl fun x => by simp [State.peek, State.storeOrKeep, h]
  · exact .inr fun x => by simp [State.peek, State.storeOrKeep, h]

theorem storeOrKeep_word : wordKept s (s.storeOrKeep a v) a ∨ wordWritten s (s.storeOrKeep a v) a v := by
  refine (peek_storeOrKeep_cases s a v).imp (fun h k _ => h _) fun h k hk => ?_
  have hlen : k < (splitLE 4 v).length := by rwa [splitLE_length]
  rw [h, peek_writeBytes _ a s k hlen (by simp [splitLE_length]), splitLE_getElem]

theorem peek_storeOrKeep_of_ne (h : ∀ k < 4, x ≠ byteAddr a k) : (s.storeOrKeep a v).peek x = s.peek x := by
  obtain hx | hx := peek_storeOrKeep_cases s a v
  · exact hx x
  · rw [hx, peek_writeBytes_of_ne _ a x s (by rwa [splitLE_length])]

end

/-- The stores change no byte outside their words. -/
theorem peek_storeSome_of_ne (l : List (Word × Word)) (s : State) (x : Word)
    (h : ∀ p ∈ l, ∀ k < 4, x ≠ byteAddr p.1 k) : (State.storeSome l s).peek x = s.peek x := by
  induction l generalizing s with
  | nil => rfl
  | cons p l ih =>
    obtain ⟨hhead, htail⟩ := List.forall_mem_cons.mp h
    rw [storeSome_cons, ih _ htail, peek_storeOrKeep_of_ne _ _ _ _ hhead]

theorem wordKept_trans {s t u : State} {a : Word} (hst : wordKept s t a) (htu : wordKept t u a) : wordKept s u a :=
  fun k hk => (htu k hk).trans (hst k hk)

/-- What is left alone after a word is written leaves it written. -/
theorem wordWritten_of_kept_after {s t u : State} {a v : Word} (hst : wordWritten s t a v) (htu : wordKept t u a) :
    wordWritten s u a v := fun k hk => (htu k hk).trans (hst k hk)

/-- Each word of the stores is kept or written as a whole (R265). -/
theorem storeSome_word (l : List (Word × Word)) (s : State) (hl : (l.map Prod.fst).Pairwise apart) :
    ∀ p ∈ l, wordKept s (State.storeSome l s) p.1 ∨ wordWritten s (State.storeSome l s) p.1 p.2 := by
  induction l generalizing s with
  | nil => simp
  | cons p l ih =>
    obtain ⟨a, v⟩ := p
    rw [List.map_cons, List.pairwise_cons] at hl
    obtain ⟨hhead, htail⟩ := hl
    rw [storeSome_cons, List.forall_mem_cons]
    constructor
    · have hafter : wordKept (s.storeOrKeep a v) (State.storeSome l (s.storeOrKeep a v)) a := fun k hk =>
        peek_storeSome_of_ne l _ _ fun q hq i hi => hhead q.1 (List.mem_map_of_mem hq) k hk i hi
      exact (storeOrKeep_word s a v).imp (wordKept_trans · hafter) (wordWritten_of_kept_after · hafter)
    · intro q hq
      have hbefore : wordKept s (s.storeOrKeep a v) q.1 := fun i hi =>
        peek_storeOrKeep_of_ne s a v _ fun k hk => (hhead q.1 (List.mem_map_of_mem hq) k hk i hi).symm
      refine (ih (s.storeOrKeep a v) htail q hq).imp (wordKept_trans hbefore) fun hw i hi => ?_
      rw [hw i hi, writtenByte, writtenByte, storeOrKeep_writable, hbefore i hi]

/-- The stores into a block of words: each word is kept or written, and every other byte is kept. -/
theorem storeSome_block (s : State) (base : Word) (k : Nat) (ws : List Word) (hk : 4 * k ≤ 2 ^ 32)
    (hws : k ≤ ws.length) :
    (∀ j < k, ∀ v, ws[j]? = some v →
      wordKept s (State.storeSome ((wordAddrs k base).zip ws) s) (wordAddr base j) ∨
      wordWritten s (State.storeSome ((wordAddrs k base).zip ws) s) (wordAddr base j) v) ∧
    ∀ x, (∀ j < 4 * k, x ≠ byteAddr base j) → (State.storeSome ((wordAddrs k base).zip ws) s).peek x = s.peek x := by
  have hapart : (((wordAddrs k base).zip ws).map Prod.fst).Pairwise apart := by
    rw [List.map_fst_zip (by rwa [wordAddrs_length])]
    exact wordAddrs_pairwise_apart k base hk
  refine ⟨fun j hj v hv => ?_, fun x hx => ?_⟩
  · refine storeSome_word _ s hapart (wordAddr base j, v) (List.mem_iff_getElem?.mpr ⟨j, ?_⟩)
    rw [List.getElem?_zip_eq_some]
    exact ⟨wordAddrs_getElem? k base j hj, hv⟩
  · refine peek_storeSome_of_ne _ s x fun p hp i hi => ?_
    obtain ⟨j, hj, hp1⟩ := (mem_wordAddrs k base p.1).mp (List.of_mem_zip hp).1
    rw [← hp1, byteAddr_wordAddr]
    exact hx _ (by omega)

/-! ## The loads before a fault -/

/-- What was read between two states was read between an earlier and a later one of the same memory. -/
theorem readsByte_of_later {s s1 t u : State} {a : Word} {b : Byte} (hs1 : s1 = { s with draws := s1.draws })
    (hle : s.draws ≤ s1.draws) (hu : t.draws ≤ u.draws) (h : readsByte s1 t a b) : readsByte s u a b := by
  have hplain : s1.plain a = s.plain a := by rw [hs1]; rfl
  have hpeek : s1.peek a = s.peek a := by rw [hs1]; rfl
  rw [readsByte, hplain, hpeek] at h
  rw [readsByte]
  split at h
  next hheld => rwa [if_pos hheld]
  next hheld =>
    obtain ⟨n, hn, hlt, hb⟩ := h
    rw [if_neg hheld]
    exact ⟨n, hle.trans hn, hlt.trans_le hu, hb⟩

theorem readsByte_drawByte (s : State) (a : Word) (h : ¬ (s.plain a = true ∧ s.peek a ≠ none)) :
    readsByte s s.drawByte.2 a s.drawByte.1 := by
  rw [readsByte, if_neg h]
  exact ⟨s.draws, le_rfl, Nat.lt_succ_self _, rfl⟩

/-- Reading a byte answers the byte held, or the draw that it takes (R44). -/
theorem readByte_reads (s : State) (a : Word) :
    readsByte s (s.readByte a).2 a (s.readByte a).1 ∧ s.draws ≤ (s.readByte a).2.draws := by
  unfold State.readByte
  split
  next hp =>
    cases hb : s.peek a with
    | none => exact ⟨readsByte_drawByte s a (by simp [hb]), Nat.le_succ _⟩
    | some b => exact ⟨by simp [readsByte, hp, hb], le_rfl⟩
  next hp => exact ⟨readsByte_drawByte s a (by simp [hp]), Nat.le_succ _⟩

theorem readBytes_draws_le (n : Nat) (a : Word) (s : State) : s.draws ≤ (State.readBytes n a s).2.draws := by
  induction n generalizing a s with
  | zero => exact le_rfl
  | succ n ih => exact (readByte_reads s a).2.trans (ih _ _)

/-- The `k`-th byte of a read is the one at the address plus `k`. -/
theorem readBytes_reads (n : Nat) (a : Word) (s : State) (k : Nat) (b : Byte) (h : (State.readBytes n a s).1[k]? = some b) :
    readsByte s (State.readBytes n a s).2 (byteAddr a k) b := by
  induction n generalizing a s k with
  | zero => simp [State.readBytes] at h
  | succ n ih =>
    obtain ⟨hbyte, hle⟩ := readByte_reads s a
    cases k with
    | zero =>
      obtain rfl := Option.some.inj h
      rw [byteAddr_zero]
      exact readsByte_of_later rfl le_rfl (readBytes_draws_le n (a + 1#32) _) hbyte
    | succ k =>
      have hrest := ih (a + 1#32) (s.readByte a).2 k h
      rw [byteAddr_succ] at hrest
      exact readsByte_of_later (readByte_eq s a) hle le_rfl hrest

/-- The bytes of a number are those that it is composed of (R42). -/
theorem byteOf_of_composeLE (bs : List Byte) (v : Word) (hv : v.toNat = composeLE bs) (k : Nat) (b : Byte)
    (h : bs[k]? = some b) : byteOf v k = b := by
  induction bs generalizing v k with
  | nil => simp at h
  | cons c bs ih =>
    rw [composeLE] at hv
    cases k with
    | zero =>
      obtain rfl := Option.some.inj h
      apply BitVec.eq_of_toNat_eq
      rw [byteOf, BitVec.extractLsb'_toNat, hv]
      simpa using c.isLt
    | succ k =>
      rw [← byteOf_shift]
      refine ih (v >>> 8) ?_ k h
      rw [BitVec.toNat_ushiftRight, Nat.shiftRight_eq_div_pow, hv]
      omega

theorem composeLE_lt (bs : List Byte) : composeLE bs < 256 ^ bs.length := by
  induction bs with
  | nil => exact Nat.one_pos
  | cons b bs ih =>
    have hb := b.isLt
    rw [composeLE, List.length_cons, Nat.pow_succ]
    omega

/-- A word read is the one at its address (R44). -/
theorem readBytes_readsWord (a : Word) (s : State) :
    readsWord s (State.readBytes 4 a s).2 a (BitVec.ofNat 32 (composeLE (State.readBytes 4 a s).1)) := by
  intro k hk
  have hlen := readBytes_length 4 a s
  have hlt := composeLE_lt (State.readBytes 4 a s).1
  rw [hlen] at hlt
  have hbyte := List.getElem?_eq_getElem (show k < (State.readBytes 4 a s).1.length by rwa [hlen])
  rw [byteOf_of_composeLE _ _ (by rw [BitVec.toNat_ofNat]; exact Nat.mod_eq_of_lt hlt) k _ hbyte]
  exact readBytes_reads 4 a s k _ hbyte

theorem loadWords_draws_le (as : List Word) (s : State) : s.draws ≤ (State.loadWords as s).2.draws := by
  induction as generalizing s with
  | nil => exact le_rfl
  | cons a as ih => exact (readBytes_draws_le 4 a s).trans (ih _)

/-- Word `j` of the loads is the one at their `j`-th address. -/
theorem loadWords_reads (as : List Word) (s u : State) (hu : (State.loadWords as s).2.draws ≤ u.draws) (j : Nat)
    (a v : Word) (ha : as[j]? = some a) (hv : (State.loadWords as s).1[j]? = some v) : readsWord s u a v := by
  induction as generalizing s j with
  | nil => simp at ha
  | cons c as ih =>
    cases j with
    | zero =>
      obtain rfl := Option.some.inj ha
      obtain rfl := Option.some.inj hv
      exact fun k hk => readsByte_of_later rfl le_rfl ((loadWords_draws_le as _).trans hu) (readBytes_readsWord c s k hk)
    | succ j =>
      exact fun k hk => readsByte_of_later (readBytes_eq 4 c s) (readBytes_draws_le 4 c s) le_rfl
        (ih (State.readBytes 4 c s).2 hu j ha hv k hk)

/-- Writing a register or leaving it, as the free choice says (R265). -/
def State.setOrKeep (s : State) (r : RegNum) (v : Word) : State :=
  s.nextDraw.setReg r (if Config.keepsNew s.draws then v else s.reg r)

theorem setSome_cons (r : RegNum) (v : Word) (l : List (RegNum × Word)) (s : State) :
    State.setSome ((r, v) :: l) s = State.setSome l (s.setOrKeep r v) := rfl

theorem setOrKeep_reg_cases (s : State) (r q : RegNum) (v : Word) :
    (s.setOrKeep r v).reg q = s.reg q ∨ (q = r ∧ (s.setOrKeep r v).reg q = v) := by
  rw [State.setOrKeep, reg_setReg]
  split
  next h =>
    subst h
    split
    · exact .inr ⟨rfl, rfl⟩
    · exact .inl rfl
  next => exact .inl rfl

/-- A register after the loads holds its old value, or one that was loaded into it (R265). -/
theorem setSome_reg_cases (l : List (RegNum × Word)) (s : State) (r : RegNum) :
    (State.setSome l s).reg r = s.reg r ∨ (r, (State.setSome l s).reg r) ∈ l := by
  induction l generalizing s with
  | nil => exact .inl rfl
  | cons p l ih =>
    obtain ⟨q, v⟩ := p
    rw [setSome_cons]
    obtain hkept | hloaded := ih (s.setOrKeep q v)
    · obtain hq | ⟨rfl, hv⟩ := setOrKeep_reg_cases s q r v
      · exact .inl (hkept.trans hq)
      · exact .inr (by simp [hkept, hv])
    · exact .inr (List.mem_cons_of_mem _ hloaded)

theorem setSome_draws_le (l : List (RegNum × Word)) (s : State) : s.draws ≤ (State.setSome l s).draws := by
  induction l generalizing s with
  | nil => exact le_rfl
  | cons p l ih =>
    obtain ⟨r, v⟩ := p
    exact (Nat.le_succ _).trans (ih (s.setOrKeep r v))

/-! ## PUSH and POP -/

theorem listCount_le (extra : Bool) (list : BitVec 8) : listCount extra list ≤ 9 := by
  have hlow : listedBelow list 8 ≤ 8 := (List.length_filter_le _ _).trans (List.length_range).le
  have hextra := Bool.toNat_le extra
  rw [listCount]
  omega

section
variable {s : State} {k : Nat} {f : FaultRecord}

/-- What a PUSH leaves that kept some of the words before access `k`. -/
theorem push_partial (lr : Bool) (list : BitVec 8) (hk : k < listCount lr list) (base : Word) (t : State)
    (ht : t = (State.storeSome ((wordAddrs k base).zip (s.pushed lr list)) s).raise f) :
    (∀ j < k, wordKept s t (wordAddr base j) ∨ ∃ v, pushedWord s lr list j v ∧ wordWritten s t (wordAddr base j) v) ∧
    ∀ x, (∀ j < 4 * k, x ≠ byteAddr base j) → t.peek x = s.peek x := by
  subst ht
  have hle := listCount_le lr list
  have hlen := pushed_length s lr list
  obtain ⟨hwords, hrest⟩ := storeSome_block s base k (s.pushed lr list) (by omega) (by omega)
  refine ⟨fun j hj => ?_, hrest⟩
  have hv := List.getElem?_eq_getElem (show j < (s.pushed lr list).length by omega)
  exact (hwords j hj _ hv).imp id fun hw => ⟨_, pushedWord_of_getElem? s lr list j _ hv, hw⟩

/-- A register and the word loaded into it: the one at the register's place in the list. -/
theorem mem_zip_listedRegs {list : BitVec 8} {vs : List Word} {r : RegNum} {v : Word}
    (h : (r, v) ∈ (listedRegs list).zip vs) :
    ∃ q : LowReg, r = low q ∧ list.getLsbD q.toNat = true ∧ vs[listedBelow list q.toNat]? = some v := by
  obtain ⟨j, hj⟩ := List.mem_iff_getElem?.mp h
  obtain ⟨hr, hv⟩ := List.getElem?_zip_eq_some.mp hj
  obtain ⟨q, rfl, hbit, rfl⟩ := (listedRegs_getElem? list j r).mp hr
  exact ⟨q, rfl, hbit, hv⟩

/-- What a POP leaves that kept some of the registers loaded before access `k`. -/
theorem pop_partial (list : BitVec 8) (base : Word) (vs : List Word) (s1 : State)
    (hload : State.loadWords (wordAddrs k base) s = (vs, s1)) (t : State)
    (ht : t = (State.setSome ((listedRegs list).zip vs) s1).raise f) :
    (∀ q : LowReg, list.getLsbD q.toNat = true → listedBelow list q.toNat < k →
      t.reg (low q) = s.reg (low q) ∨ readsWord s t (wordAddr base (listedBelow list q.toNat)) (t.reg (low q))) ∧
    ∀ r, (∀ q : LowReg, list.getLsbD q.toNat = true → listedBelow list q.toNat < k → r ≠ low q) →
      t.reg r = s.reg r := by
  have hlen : vs.length = k := by
    have h := loadWords_length (wordAddrs k base) s
    rwa [hload, wordAddrs_length] at h
  have hcases : ∀ r, t.reg r = s.reg r ∨ ∃ q : LowReg, r = low q ∧ list.getLsbD q.toNat = true ∧
      vs[listedBelow list q.toNat]? = some (t.reg r) := fun r => by
    obtain hkept | hloaded := setSome_reg_cases ((listedRegs list).zip vs) s1 r
    · left
      rw [ht, raise_reg, hkept, loadWords_state hload]
      rfl
    · rw [ht, raise_reg]
      exact .inr (mem_zip_listedRegs hloaded)
  constructor
  · refine fun q hbit hq => (hcases (low q)).imp id ?_
    rintro ⟨p, hp, -, hv⟩
    obtain rfl := (low_inj q p).mp hp
    refine loadWords_reads _ s t ?_ _ _ _ (wordAddrs_getElem? k base _ hq) ?_
    · rw [hload, ht]
      exact setSome_draws_le _ s1
    · rwa [hload]
  · intro r hr
    obtain hkept | ⟨q, rfl, hbit, hv⟩ := hcases r
    · exact hkept
    · obtain ⟨hlt, -⟩ := List.getElem?_eq_some_iff.mp hv
      exact absurd rfl (hr q hbit (hlen ▸ hlt))

end

/-- A PUSH takes the first fault of its block (R267). -/
theorem push_takes_firstFault (s : State) (lr : Bool) (list : BitVec 8)
    (h : ∃ j < listCount lr list, s.accessFault .write .word (wordAddr (pushAddr s (listCount lr list)) j) ≠ none) :
    ∃ k f, firstFault s .write (pushAddr s (listCount lr list)) (listCount lr list) k f ∧
      (s.push lr list).fault = some f ∧ (s.push lr list).run = .halted := by
  obtain ⟨j, hj, hfault⟩ := h
  obtain ⟨hnone, -⟩ | ⟨k, f, hfirst, h⟩ := push_block_cases s lr list (by omega)
  · exact absurd (hnone j hj) hfault
  · exact ⟨k, f, hfirst, by simp [h], by simp [h]⟩

/-- A POP takes the first fault of its block (R267). -/
theorem pop_takes_firstFault (s : State) (pc : Bool) (list : BitVec 8)
    (h : ∃ j < listCount pc list, s.accessFault .read .word (wordAddr (s.reg SP) j) ≠ none) :
    ∃ k f, firstFault s .read (s.reg SP) (listCount pc list) k f ∧
      (s.pop pc list).fault = some f ∧ (s.pop pc list).run = .halted := by
  obtain ⟨j, hj, hfault⟩ := h
  obtain ⟨hnone, -⟩ | ⟨k, f, hfirst, vs, s1, -, h⟩ := pop_block_cases s pc list (by omega)
  · exact absurd (hnone j hj) hfault
  · exact ⟨k, f, hfirst, by simp [h], by simp [h]⟩

theorem blockOf_eq_none {i : Instr} (s : State) (h : ∀ m list, i ≠ .push m list ∧ i ≠ .pop m list) :
    blockOf i s = none := by
  cases i
  case push m list => exact absurd rfl (h m list).1
  case pop m list => exact absurd rfl (h m list).2
  all_goals rfl

/-- Settles O28: an instruction other than PUSH and POP only raises its fault, and PUSH and POP stop at the first faulting
access of their block, with what they stored or loaded before it kept or not. -/
theorem partialState : Obligations.PartialState := by
  refine ⟨fun i s t f hs h hf => ⟨fun hi => ?_, ?_, ?_⟩, fun s m list h => ?_, fun s p list h => ?_⟩
  · exact (exec_eq_raise hs (blockOf_eq_none s hi) h hf).1
  · rintro m list rfl hn
    obtain rfl := Host.Outcome.next.inj h
    obtain ⟨k, ⟨hk, hfault, hbefore⟩, ht⟩ := push_faulting hs hf hn
    obtain ⟨hwords, hrest⟩ := push_partial m list hk (pushAddr s (listCount m list)) _ ht
    refine ⟨k, hk, hfault, hbefore, hwords, hrest, ?_⟩
    rw [ht, storeSome_eq]
    exact ⟨fun _ _ => rfl, rfl, rfl, rfl⟩
  · rintro p list rfl hn
    obtain rfl := Host.Outcome.next.inj h
    obtain ⟨k, ⟨hk, hfault, hbefore⟩, vs, s1, hload, ht⟩ := pop_faulting hs hf hn
    obtain ⟨hloaded, hrest⟩ := pop_partial list (s.reg SP) vs s1 hload _ ht
    refine ⟨k, hk, hfault, hbefore, hloaded, hrest, pop_mem s p list, ?_⟩
    rw [ht, setSome_eq, loadWords_state hload]
    exact ⟨rfl, rfl, rfl⟩
  · obtain ⟨k, f, ⟨hk, hfault, hbefore⟩, hf, hrun⟩ := push_takes_firstFault s m list h
    exact ⟨k, hk, f, _, hfault, hbefore, rfl, hf, hrun⟩
  · obtain ⟨k, f, ⟨hk, hfault, hbefore⟩, hf, hrun⟩ := pop_takes_firstFault s p list h
    exact ⟨k, hk, f, _, hfault, hbefore, rfl, hf, hrun⟩

end Sys2Proof.Machine
end

section
/-! PROOFS. PUSH and POP with an empty list (R266): their halfwords, their fault, and that the encoder, which refuses an empty
list (R86, R230), never produces those halfwords. -/

namespace Sys2Proof.Machine

/-! ## What an entry of the encoder can answer -/

/-- Whatever these entries answer, it satisfies `p`. -/
def answersOnly (p : Instr → Prop) (l : List (Except EncodeErrorKind Instr)) : Prop := ∀ i, .ok i ∈ l → p i

theorem mem_of_firstOk {l : List (Except EncodeErrorKind Instr)} {i : Instr} (h : firstOk l = some i) : .ok i ∈ l := by
  induction l with
  | nil => cases h
  | cons x l ih =>
    cases x with
    | ok j =>
      obtain rfl := Option.some.inj h
      exact List.mem_cons_self
    | error e => exact List.mem_cons_of_mem _ (ih h)

section
variable {p : Instr → Prop}

theorem answersOnly_nil : answersOnly p [] := fun _ h => absurd h List.not_mem_nil

theorem answersOnly_cons {x : Except EncodeErrorKind Instr} {l : List (Except EncodeErrorKind Instr)}
    (hx : answersOnly p [x]) (hl : answersOnly p l) : answersOnly p (x :: l) := by
  intro i hi
  obtain rfl | hi := List.mem_cons.mp hi
  · exact hx i (List.mem_singleton_self _)
  · exact hl i hi

theorem answersOnly_ok {i : Instr} (h : p i) : answersOnly p [.ok i] := by
  intro j hj
  obtain rfl := Except.ok.inj (List.mem_singleton.mp hj)
  exact h

theorem answersOnly_error (e : EncodeErrorKind) : answersOnly p [.error e] := by
  intro j hj
  cases List.mem_singleton.mp hj

variable {r q o : RegNum} {α : Type} {x : Except EncodeErrorKind α} {ops : List Operand}

theorem answersOnly_map {f : α → Instr} (h : ∀ a, x = .ok a → p (f a)) : answersOnly p [x.map f] := by
  cases x with
  | error e => exact answersOnly_error e
  | ok a => exact answersOnly_ok (h a rfl)

theorem answersOnly_enc2 {f : LowReg → LowReg → Instr} (h : ∀ a b, p (f a b)) : answersOnly p [enc2 r q f] := by
  unfold enc2
  split
  · exact answersOnly_ok (h _ _)
  all_goals exact answersOnly_error _

theorem answersOnly_enc3 {f : LowReg → LowReg → LowReg → Instr} (h : ∀ a b c, p (f a b c)) :
    answersOnly p [enc3 r q o f] := by
  unfold enc3
  split
  · exact answersOnly_ok (h _ _ _)
  all_goals exact answersOnly_error _

theorem answersOnly_enc1F {f : LowReg → α → Instr} (h : ∀ a b, p (f a b)) : answersOnly p [enc1F r x f] := by
  unfold enc1F
  split
  · exact answersOnly_ok (h _ _)
  all_goals exact answersOnly_error _

theorem answersOnly_enc2F {f : LowReg → LowReg → α → Instr} (h : ∀ a b c, p (f a b c)) :
    answersOnly p [enc2F r q x f] := by
  unfold enc2F
  split
  · exact answersOnly_ok (h _ _ _)
  all_goals exact answersOnly_error _

theorem answersOnly_twoLow {f : LowReg → LowReg → Instr} (h : ∀ a b, p (f a b)) : answersOnly p (twoLow ops f) := by
  unfold twoLow
  split
  · exact answersOnly_enc2 h
  · exact answersOnly_nil

theorem answersOnly_shiftForms {field : Int → Except EncodeErrorKind (BitVec 5)} {f : LowReg → LowReg → BitVec 5 → Instr}
    {g : LowReg → LowReg → Instr} (hf : ∀ a b c, p (f a b c)) (hg : ∀ a b, p (g a b)) :
    answersOnly p (shiftForms ops field f g) := by
  unfold shiftForms
  split
  · exact answersOnly_enc2F hf
  · exact answersOnly_enc2 hg
  · exact answersOnly_nil

theorem answersOnly_addForms {f : LowReg → LowReg → LowReg → Instr} {g : LowReg → LowReg → BitVec 3 → Instr}
    {h : LowReg → BitVec 8 → Instr} (hf : ∀ a b c, p (f a b c)) (hg : ∀ a b c, p (g a b c)) (hh : ∀ a b, p (h a b)) :
    answersOnly p (addForms ops f g h) := by
  unfold addForms
  split
  · exact answersOnly_enc3 hf
  · refine answersOnly_cons (answersOnly_enc2F hg) ?_
    split
    · exact answersOnly_enc1F hh
    · exact answersOnly_nil
  · exact answersOnly_enc1F hh
  · exact answersOnly_nil

theorem answersOnly_memoryForms {scale : Nat} {f : LowReg → LowReg → LowReg → Instr}
    {g : LowReg → LowReg → BitVec 5 → Instr} (hf : ∀ a b c, p (f a b c)) (hg : ∀ a b c, p (g a b c)) :
    answersOnly p (memoryForms ops scale f g) := by
  unfold memoryForms
  split
  · exact answersOnly_enc3 hf
  · exact answersOnly_enc2F hg
  · exact answersOnly_nil

theorem answersOnly_wordForms {f : LowReg → LowReg → LowReg → Instr} {g : LowReg → LowReg → BitVec 5 → Instr}
    {h : LowReg → BitVec 8 → Instr} (hf : ∀ a b c, p (f a b c)) (hg : ∀ a b c, p (g a b c)) (hh : ∀ a b, p (h a b)) :
    answersOnly p (wordForms ops f g h) := by
  unfold wordForms
  split
  · split
    · exact answersOnly_enc1F hh
    · exact answersOnly_enc2F hg
  · exact answersOnly_memoryForms hf hg

theorem answersOnly_spAdjustForms {f : BitVec 7 → Instr} (h : ∀ a, p (f a)) : answersOnly p (spAdjustForms ops f) := by
  unfold spAdjustForms
  split
  · split
    · exact answersOnly_map fun a _ => h a
    · exact answersOnly_nil
  · split
    · exact answersOnly_map fun a _ => h a
    · exact answersOnly_nil
  · exact answersOnly_nil

end

/-! ## Register lists -/

/-- Setting the bits of some low registers sets those bits and no other. -/
theorem foldl_setBit_getLsbD (rs : List RegNum) (l : BitVec 8) (hrs : ∀ r ∈ rs, r.toNat < 8) (k : Nat) :
    (rs.foldl (fun l r => setBit l r.toNat) l).getLsbD k = true ↔ l.getLsbD k = true ∨ ∃ r ∈ rs, r.toNat = k := by
  induction rs generalizing l with
  | nil => simp
  | cons r rs ih =>
    obtain ⟨hr, hrs⟩ := List.forall_mem_cons.mp hrs
    rw [List.foldl_cons, ih _ hrs, getLsbD_setBit _ _ _ hr, List.exists_mem_cons_iff, ← or_assoc]
    refine or_congr_left ?_
    by_cases hk : k = r.toNat
    · simp [hk]
    · simp [hk, Ne.symm hk]

/-- The encoder takes no empty list (R86, R230). -/
theorem listField_nonempty {extra : RegNum} {items : List ListItem} {m : Bool} {list : BitVec 8}
    (h : listField extra items = .ok (m, list)) : (m || list != 0#8) = true := by
  unfold listField at h
  split at h
  next => cases h
  next rs _ =>
    split_ifs at h with hempty _ hall
    obtain ⟨rfl, rfl⟩ := Prod.mk.inj (Except.ok.inj h)
    cases hextra : rs.contains extra with
    | true => rfl
    | false =>
      have hlow : ∀ r ∈ rs, r.toNat < 8 := fun r hr => by
        have hne : r ≠ extra := by
          rintro rfl
          simp [hr] at hextra
        simpa [hne] using List.all_eq_true.mp hall r hr
      obtain ⟨r, hr⟩ := List.exists_mem_of_ne_nil rs hempty
      have hbit := (foldl_setBit_getLsbD rs 0#8 hlow r.toNat).mpr (.inr ⟨r, hr, rfl⟩)
      rw [List.filter_eq_self.mpr (by simpa using hlow), Bool.false_or, bne_iff_ne]
      intro hzero
      rw [hzero, BitVec.getLsbD_zero] at hbit
      cases hbit

/-! ## What assembles is encodable -/

theorem condBranch_encodable (c : Cond) (imm8 : BitVec 8) : (condBranch c imm8).encodable = true := by
  cases c <;> rfl

theorem entries_encodable (ctx : EncodeContext) (m : Mnemonic) (ops : List Operand) (hm : m ≠ .cmp) :
    answersOnly (·.encodable = true) (entries ctx m ops) := by
  cases m
  case cmp => exact absurd rfl hm
  case ands | eors | adcs | sbcs | rors | tst | cmn | orrs | bics | mvns => exact answersOnly_twoLow fun _ _ => rfl
  case lsls | lsrs | asrs => exact answersOnly_shiftForms (fun _ _ _ => rfl) fun _ _ => rfl
  case adds | subs => exact answersOnly_addForms (fun _ _ _ => rfl) (fun _ _ _ => rfl) fun _ _ => rfl
  case str => exact answersOnly_wordForms (fun _ _ _ => rfl) (fun _ _ _ => rfl) fun _ _ => rfl
  case strh | strb | ldrh | ldrb => exact answersOnly_memoryForms (fun _ _ _ => rfl) fun _ _ _ => rfl
  case sub => exact answersOnly_spAdjustForms fun _ => rfl
  case ldr =>
    simp only [entries]
    split
    · exact answersOnly_enc1F fun _ _ => rfl
    · exact answersOnly_enc1F fun _ _ => rfl
    · exact answersOnly_wordForms (fun _ _ _ => rfl) (fun _ _ _ => rfl) fun _ _ => rfl
  case movs =>
    simp only [entries]
    split
    · exact answersOnly_enc2 fun _ _ => rfl
    · exact answersOnly_enc1F fun _ _ => rfl
    · exact answersOnly_nil
  case muls =>
    simp only [entries]
    split
    · split
      · exact answersOnly_enc2 fun _ _ => rfl
      · exact answersOnly_nil
    · exact answersOnly_enc2 fun _ _ => rfl
    · exact answersOnly_nil
  case add =>
    simp only [entries]
    split
    · exact answersOnly_ok rfl
    · split
      · exact answersOnly_spAdjustForms fun _ => rfl
      · split
        · exact answersOnly_enc1F fun _ _ => rfl
        · exact answersOnly_nil
    · exact answersOnly_spAdjustForms fun _ => rfl
  case push | pop =>
    simp only [entries]
    split
    · exact answersOnly_map fun _ h => listField_nonempty h
    · exact answersOnly_nil
  case bcond c =>
    simp only [entries]
    split
    · exact answersOnly_map fun _ _ => condBranch_encodable c _
    · exact answersOnly_nil
  case bhs | blo | b | bl =>
    simp only [entries]
    split
    · exact answersOnly_map fun _ _ => rfl
    · exact answersOnly_nil
  case mov | bx | blx =>
    simp only [entries]
    split
    · exact answersOnly_ok rfl
    · exact answersOnly_nil
  case ldrsb | ldrsh =>
    simp only [entries]
    split
    · exact answersOnly_enc3 fun _ _ _ => rfl
    · exact answersOnly_nil
  case adr =>
    simp only [entries]
    split
    · exact answersOnly_enc1F fun _ _ => rfl
    · exact answersOnly_nil
  case rsbs =>
    simp only [entries]
    split
    · exact answersOnly_enc2F fun _ _ _ => rfl
    · exact answersOnly_nil

theorem getLsbD_three (r : RegNum) : r.getLsbD 3 = decide (8 ≤ r.toNat) := by
  revert r
  decide

/-- The high form of CMP is reached only when the form of two low registers refuses (R79, R141). -/
theorem assemble_cmp_encodable (ctx : EncodeContext) (ops : List Operand) (i : Instr)
    (h : firstOk (entries ctx .cmp ops) = some i) : i.encodable = true := by
  simp only [entries] at h
  split at h
  next n v =>
    exact answersOnly_enc1F (p := (·.encodable = true)) (fun _ _ => rfl) i (mem_of_firstOk h)
  next n q =>
    by_cases hlow : n.toNat < 8 ∧ q.toNat < 8
    · have henc : enc2 n q .cmpReg = .ok (.cmpReg (n.setWidth 3) (q.setWidth 3)) := by
        simp [enc2, lowField, hlow]
      rw [henc] at h
      obtain rfl := Option.some.inj h
      rfl
    · obtain hi | hi := List.mem_cons.mp (mem_of_firstOk h)
      · exact answersOnly_enc2 (p := (·.encodable = true)) (fun _ _ => rfl) i (List.mem_singleton.mpr hi)
      · obtain rfl := Except.ok.inj (List.mem_singleton.mp hi)
        rw [Instr.encodable, getLsbD_three, getLsbD_three, Bool.or_eq_true, decide_eq_true_eq, decide_eq_true_eq]
        omega
  next => cases h

/-- What assembles is encodable (R86, R141, R230). -/
theorem encodable_of_assemble {ctx : EncodeContext} {m : Mnemonic} {ops : List Operand} {i : Instr}
    (h : assemble ctx m ops = .ok i) : i.encodable = true := by
  rw [assemble_eq_ok] at h
  by_cases hm : m = .cmp
  · subst hm
    exact assemble_cmp_encodable ctx ops i h
  · exact entries_encodable ctx m ops hm i (mem_of_firstOk h)

/-! ## The halfwords of an empty list -/

/-- A halfword with other leading bits than a layout's is none of the layout's words. -/
theorem pack_ne_of_leading {n m : Nat} (op : BitVec n) (rest : BitVec m) (h : Halfword)
    (hne : h &&& (BitVec.allOnes 16 <<< m) ≠ pack (op ++ 0#m)) : pack (op ++ rest) ≠ h := by
  rintro rfl
  exact hne (pack_and_highMask op rest)

/-- The words of PUSH and POP whose low nine bits are clear are those of an empty list (R230). -/
theorem empty_of_pack {op : BitVec 7} {extra : Bool} {list : BitVec 8} {h : Halfword}
    (he : pack (op ++ BitVec.ofBool extra ++ list) = h) (hlist : field h 0 8 = 0#8) (hextra : field h 8 1 = 0#1) :
    (extra || list != 0#8) = false := by
  subst he
  rw [field_pack_last _ list (by decide)] at hlist
  rw [field_pack_middle op _ list (by decide)] at hextra
  subst hlist
  cases extra
  · rfl
  · cases hextra

/-- No encodable instruction has the halfword of an empty list: PUSH and POP have a bit set, and the others lead otherwise. -/
theorem encode_ne_empty (i : Instr) (hi : i.encodable = true) (h : Halfword) (hh : h = 0xB400#16 ∨ h = 0xBC00#16) :
    encode i ≠ .one h := by
  have hlist : field h 0 8 = 0#8 := by rcases hh with rfl | rfl <;> decide
  have hextra : field h 8 1 = 0#1 := by rcases hh with rfl | rfl <;> decide
  cases i
  case push | pop =>
    intro he
    exact absurd hi (by rw [Instr.encodable, empty_of_pack (Opcode.one.inj he) hlist hextra]; decide)
  case bl => exact fun he => by cases he
  all_goals
    simp only [encode, pack_append_assoc, ne_eq, Opcode.one.injEq]
    rcases hh with rfl | rfl <;> exact pack_ne_of_leading _ _ _ (by decide)

/-- Settles O29: the words decode as they stand, an empty list is checked before any access, and what assembles is encodable,
which an empty list is not. -/
theorem emptyRegisterList : Obligations.EmptyRegisterList := by
  refine ⟨⟨by decide, by decide⟩, ⟨by decide, by decide⟩, fun s => ?_, fun s => ?_, fun ctx m ops op h => ?_⟩
  · exact congrArg Host.Outcome.next (push_of_empty s false 0#8 rfl)
  · exact congrArg Host.Outcome.next (pop_of_empty s false 0#8 rfl)
  · rw [assembleOpcode] at h
    cases hi : assemble ctx m ops with
    | error e =>
      rw [hi] at h
      cases h
    | ok i =>
      rw [hi] at h
      obtain rfl := Except.ok.inj h
      have hencodable := encodable_of_assemble hi
      exact ⟨encode_ne_empty i hencodable _ (.inl rfl), encode_ne_empty i hencodable _ (.inr rfl)⟩

end Sys2Proof.Machine
end

section
/-! PROOFS. The reset operation (R290): what `reset()` leaves in each part of the state. -/

namespace Sys2Proof.Machine

/-! ## The state after a reset

Only the model's count of draws tells it from the reset state of the same parameters. -/

@[simp] theorem afterReset_reg (s : State) (r : RegNum) : s.afterReset.reg r = (State.resetWith s.params).reg r := rfl
@[simp] theorem afterReset_apsr (s : State) : s.afterReset.apsr = 0#32 := rfl
@[simp] theorem afterReset_fault (s : State) : s.afterReset.fault = none := rfl
@[simp] theorem afterReset_params (s : State) : s.afterReset.params = s.params := rfl
@[simp] theorem afterReset_peek (s : State) (a : Word) : s.afterReset.peek a = none := rfl

/-- Settles O18: `reset()` is refused while Running, and otherwise answers the state after a reset, whose registers are those
of `resetWith`. -/
theorem resetOperation : Obligations.ResetOperation := by
  refine ⟨fun s h => ⟨_, hostReset_of_running s h⟩, fun s h => ⟨s.afterReset, hostReset_of_not_running s h, ?memory,
    ?general, ?lr, ?sp, ?pc, afterReset_apsr s, afterReset_fault s, afterReset_run s, afterReset_params s⟩⟩
  case memory => exact afterReset_peek s
  case general => exact fun r hr => (afterReset_reg s r).trans (resetWith_general s.params r hr)
  case lr => exact (afterReset_reg s LR).trans (resetWith_LR s.params)
  case sp => exact (afterReset_reg s SP).trans (resetWith_SP s.params)
  case pc => exact (afterReset_reg s PC).trans (resetWith_pc s.params)

end Sys2Proof.Machine
end

section
/-! PROOFS. The decoder and the encoder against each other (R68, R69, R73, R74): every well-formed instruction has its word, every
word that decodes is that of its instruction, and the same from bytes. -/

namespace Sys2Proof.Machine

/-! ## The remaining layouts -/

section
variable {k : Nat} {form layout : String}

/-- A bit and an 8-bit register list after seven fixed bits. -/
theorem hasWord_listRegs (f : Bool → BitVec 8 → Instr) (op : BitVec 7) (extra : Bool) (list : BitVec 8)
    (hk : catalog[k]? = some ⟨form, layout, 0xFE00#16, pack (op ++ 0#9), fun h => f (h.getLsbD 8) (field h 0 8)⟩)
    (hne : k ≠ 1) (hword : encode (f extra list) = .one (pack (op ++ BitVec.ofBool extra ++ list))) :
    hasWord (f extra list) (.one (pack (op ++ BitVec.ofBool extra ++ list))) := by
  have hextra : (pack (op ++ BitVec.ofBool extra ++ list)).getLsbD 8 = extra := by
    rw [pack, BitVec.setWidth_eq, BitVec.getLsbD_append, BitVec.getLsbD_append]
    simp
  have hlist : field (pack (op ++ BitVec.ofBool extra ++ list)) 0 8 = list := field_pack_last _ list (by decide)
  exact hasWord_of_row op _ (pack_append_assoc op _ list) hk hne (by decide) hword (congrArg₂ f hextra hlist)

/-- An 8-bit offset after eight fixed bits. -/
theorem hasWord_condOffset (f : BitVec 8 → Instr) (op : BitVec 8) (imm8 : BitVec 8)
    (hk : catalog[k]? = some ⟨form, layout, 0xFF00#16, pack (op ++ 0#8), fun h => f (field h 0 8)⟩)
    (hne : k ≠ 1) (hword : encode (f imm8) = .one (pack (op ++ imm8))) : hasWord (f imm8) (.one (pack (op ++ imm8))) :=
  hasWord_of_row op imm8 rfl hk hne (by decide) hword (congrArg f (field_pack_last op imm8 (by decide)))

end

/-! ## The word of every instruction -/

/-- Every well-formed instruction decodes from its words, by the row of the catalog at its place (R73, R74). -/
theorem hasWord_encode (i : Instr) (hwf : i.wf = true) : hasWord i (encode i) := by
  cases i
  case movsReg => exact hasWord_twoRegs (k := 0) .movsReg _ _ _ rfl (by decide) rfl
  case lslsImm rd rm imm5 => exact hasWord_lslsImm rd rm imm5 (bne_iff_ne.mp hwf)
  case lsrsImm => exact hasWord_regsImm5 (k := 2) _ _ _ _ .lsrsImm rfl (by decide) rfl
  case asrsImm => exact hasWord_regsImm5 (k := 3) _ _ _ _ .asrsImm rfl (by decide) rfl
  case addsReg => exact hasWord_threeFields (k := 4) .addsReg _ _ _ _ rfl (by decide) rfl
  case subsReg => exact hasWord_threeFields (k := 5) .subsReg _ _ _ _ rfl (by decide) rfl
  case addsImm3 => exact hasWord_threeFields (k := 6) .addsImm3 _ _ _ _ rfl (by decide) rfl
  case subsImm3 => exact hasWord_threeFields (k := 7) .subsImm3 _ _ _ _ rfl (by decide) rfl
  case movsImm8 => exact hasWord_regImm8 (k := 8) .movsImm8 _ _ _ rfl (by decide) rfl
  case cmpImm8 => exact hasWord_regImm8 (k := 9) .cmpImm8 _ _ _ rfl (by decide) rfl
  case addsImm8 => exact hasWord_regImm8 (k := 10) .addsImm8 _ _ _ rfl (by decide) rfl
  case subsImm8 => exact hasWord_regImm8 (k := 11) .subsImm8 _ _ _ rfl (by decide) rfl
  case ands => exact hasWord_twoRegs (k := 12) .ands _ _ _ rfl (by decide) rfl
  case eors => exact hasWord_twoRegs (k := 13) .eors _ _ _ rfl (by decide) rfl
  case lslsReg => exact hasWord_twoRegs (k := 14) .lslsReg _ _ _ rfl (by decide) rfl
  case lsrsReg => exact hasWord_twoRegs (k := 15) .lsrsReg _ _ _ rfl (by decide) rfl
  case asrsReg => exact hasWord_twoRegs (k := 16) .asrsReg _ _ _ rfl (by decide) rfl
  case adcs => exact hasWord_twoRegs (k := 17) .adcs _ _ _ rfl (by decide) rfl
  case sbcs => exact hasWord_twoRegs (k := 18) .sbcs _ _ _ rfl (by decide) rfl
  case rors => exact hasWord_twoRegs (k := 19) .rors _ _ _ rfl (by decide) rfl
  case tst => exact hasWord_twoRegs (k := 20) .tst _ _ _ rfl (by decide) rfl
  case rsbs => exact hasWord_twoRegs (k := 21) .rsbs _ _ _ rfl (by decide) rfl
  case cmpReg => exact hasWord_twoRegs (k := 22) .cmpReg _ _ _ rfl (by decide) rfl
  case cmn => exact hasWord_twoRegs (k := 23) .cmn _ _ _ rfl (by decide) rfl
  case orrs => exact hasWord_twoRegs (k := 24) .orrs _ _ _ rfl (by decide) rfl
  case muls => exact hasWord_twoRegs (k := 25) .muls _ _ _ rfl (by decide) rfl
  case bics => exact hasWord_twoRegs (k := 26) .bics _ _ _ rfl (by decide) rfl
  case mvns => exact hasWord_twoRegs (k := 27) .mvns _ _ _ rfl (by decide) rfl
  case addHi => exact hasWord_highRegs (k := 28) .addHi _ _ _ rfl (by decide) rfl
  case cmpHi => exact hasWord_highRegs (k := 29) .cmpHi _ _ _ rfl (by decide) rfl
  case movHi => exact hasWord_highRegs (k := 30) .movHi _ _ _ rfl (by decide) rfl
  case bx => exact hasWord_branchExchange (k := 31) _ _ .bx rfl (by decide) rfl
  case blx => exact hasWord_branchExchange (k := 32) _ _ .blx rfl (by decide) rfl
  case ldrLit => exact hasWord_regImm8 (k := 33) .ldrLit _ _ _ rfl (by decide) rfl
  case strReg => exact hasWord_threeFields (k := 34) .strReg _ _ _ _ rfl (by decide) rfl
  case strhReg => exact hasWord_threeFields (k := 35) .strhReg _ _ _ _ rfl (by decide) rfl
  case strbReg => exact hasWord_threeFields (k := 36) .strbReg _ _ _ _ rfl (by decide) rfl
  case ldrsbReg => exact hasWord_threeFields (k := 37) .ldrsbReg _ _ _ _ rfl (by decide) rfl
  case ldrReg => exact hasWord_threeFields (k := 38) .ldrReg _ _ _ _ rfl (by decide) rfl
  case ldrhReg => exact hasWord_threeFields (k := 39) .ldrhReg _ _ _ _ rfl (by decide) rfl
  case ldrbReg => exact hasWord_threeFields (k := 40) .ldrbReg _ _ _ _ rfl (by decide) rfl
  case ldrshReg => exact hasWord_threeFields (k := 41) .ldrshReg _ _ _ _ rfl (by decide) rfl
  case strImm => exact hasWord_regsImm5 (k := 42) _ _ _ _ .strImm rfl (by decide) rfl
  case ldrImm => exact hasWord_regsImm5 (k := 43) _ _ _ _ .ldrImm rfl (by decide) rfl
  case strbImm => exact hasWord_regsImm5 (k := 44) _ _ _ _ .strbImm rfl (by decide) rfl
  case ldrbImm => exact hasWord_regsImm5 (k := 45) _ _ _ _ .ldrbImm rfl (by decide) rfl
  case strhImm => exact hasWord_regsImm5 (k := 46) _ _ _ _ .strhImm rfl (by decide) rfl
  case ldrhImm => exact hasWord_regsImm5 (k := 47) _ _ _ _ .ldrhImm rfl (by decide) rfl
  case strSp => exact hasWord_regImm8 (k := 48) .strSp _ _ _ rfl (by decide) rfl
  case ldrSp => exact hasWord_regImm8 (k := 49) .ldrSp _ _ _ rfl (by decide) rfl
  case adr => exact hasWord_regImm8 (k := 50) .adr _ _ _ rfl (by decide) rfl
  case addRdSp => exact hasWord_regImm8 (k := 51) .addRdSp _ _ _ rfl (by decide) rfl
  case addSpImm => exact hasWord_imm7 (k := 52) .addSpImm _ _ rfl (by decide) rfl
  case subSpImm => exact hasWord_imm7 (k := 53) .subSpImm _ _ rfl (by decide) rfl
  case push => exact hasWord_listRegs (k := 54) .push _ _ _ rfl (by decide) rfl
  case pop => exact hasWord_listRegs (k := 55) .pop _ _ _ rfl (by decide) rfl
  case beq => exact hasWord_condOffset (k := 56) .beq _ _ rfl (by decide) rfl
  case bne => exact hasWord_condOffset (k := 57) .bne _ _ rfl (by decide) rfl
  case bcs => exact hasWord_condOffset (k := 58) .bcs _ _ rfl (by decide) rfl
  case bcc => exact hasWord_condOffset (k := 59) .bcc _ _ rfl (by decide) rfl
  case bmi => exact hasWord_condOffset (k := 60) .bmi _ _ rfl (by decide) rfl
  case bpl => exact hasWord_condOffset (k := 61) .bpl _ _ rfl (by decide) rfl
  case bvs => exact hasWord_condOffset (k := 62) .bvs _ _ rfl (by decide) rfl
  case bvc => exact hasWord_condOffset (k := 63) .bvc _ _ rfl (by decide) rfl
  case bhi => exact hasWord_condOffset (k := 64) .bhi _ _ rfl (by decide) rfl
  case bls => exact hasWord_condOffset (k := 65) .bls _ _ rfl (by decide) rfl
  case bge => exact hasWord_condOffset (k := 66) .bge _ _ rfl (by decide) rfl
  case blt => exact hasWord_condOffset (k := 67) .blt _ _ rfl (by decide) rfl
  case bgt => exact hasWord_condOffset (k := 68) .bgt _ _ rfl (by decide) rfl
  case ble => exact hasWord_condOffset (k := 69) .ble _ _ rfl (by decide) rfl
  case bal => exact hasWord_condOffset (k := 70) .bal _ _ rfl (by decide) rfl
  case b => exact hasWord_b _
  case bl => exact hasWord_bl _ _ _

/-- Settles O1: each well-formed instruction has its word. -/
theorem decodeOfEncode : Obligations.DecodeOfEncode := fun i hwf => (hasWord_encode i hwf).2

/-! ## A halfword from its fields -/

/-- A halfword that has the leading bits of a layout is the layout's, with its own low bits. -/
theorem pack_leading_rest {n m : Nat} (op : BitVec n) (h : Halfword) (hnm : n + m = 16)
    (hop : h &&& (BitVec.allOnes 16 <<< m) = pack (op ++ 0#m)) : pack (op ++ field h 0 m) = h := by
  have hlow (x : BitVec m) (i : Nat) (hi : i < 16) :
      (pack (op ++ x)).getLsbD i = if i < m then x.getLsbD i else op.getLsbD (i - m) := by
    rw [pack, BitVec.getLsbD_setWidth, BitVec.getLsbD_append, decide_eq_true hi, Bool.true_and]
  apply BitVec.eq_of_getLsbD_eq
  intro i hi
  rw [hlow _ i hi]
  split
  next hm => simp [field, hm]
  next hm =>
    have hbit := congrArg (·.getLsbD i) hop
    simp only [hlow _ i hi, if_neg hm, BitVec.getLsbD_and, BitVec.getLsbD_shiftLeft, BitVec.getLsbD_allOnes] at hbit
    simpa [hi, hm, show i - m < 16 by omega] using hbit.symm

/-- The low bits of a halfword, cut into two fields. -/
theorem field_append (h : Halfword) (lo len : Nat) : field h lo len ++ field h 0 lo = field h 0 (len + lo) := by
  apply BitVec.eq_of_getLsbD_eq
  intro i hi
  simp only [field, BitVec.getLsbD_append, BitVec.getLsbD_extractLsb', Nat.zero_add]
  by_cases hlo : i < lo
  · simp [hlo, hi]
  · simp [hlo, hi, show i - lo < len by omega, show lo + (i - lo) = i by omega]

section
variable (h : Halfword)

theorem pack_threeFields (op : BitVec 7) (hop : h &&& 0xFE00#16 = pack (op ++ 0#9)) :
    pack (op ++ field h 6 3 ++ field h 3 3 ++ field h 0 3) = h := by
  rw [pack_append_assoc, pack_append_assoc, field_append h 3 3, field_append h 6 3]
  exact pack_leading_rest op h rfl hop

theorem pack_twoRegs (op : BitVec 10) (hop : h &&& 0xFFC0#16 = pack (op ++ 0#6)) :
    pack (op ++ field h 3 3 ++ field h 0 3) = h := by
  rw [pack_append_assoc, field_append h 3 3]
  exact pack_leading_rest op h rfl hop

theorem pack_fieldsImm5 (op : BitVec 5) (hop : h &&& 0xF800#16 = pack (op ++ 0#11)) :
    pack (op ++ field h 6 5 ++ field h 3 3 ++ field h 0 3) = h := by
  rw [pack_append_assoc, pack_append_assoc, field_append h 3 3, field_append h 6 5]
  exact pack_leading_rest op h rfl hop

theorem pack_regImm8 (op : BitVec 5) (hop : h &&& 0xF800#16 = pack (op ++ 0#11)) :
    pack (op ++ field h 8 3 ++ field h 0 8) = h := by
  rw [pack_append_assoc, field_append h 8 3]
  exact pack_leading_rest op h rfl hop

theorem pack_listRegs (op : BitVec 7) (hop : h &&& 0xFE00#16 = pack (op ++ 0#9)) :
    pack (op ++ BitVec.ofBool (h.getLsbD 8) ++ field h 0 8) = h := by
  have hbit : BitVec.ofBool (h.getLsbD 8) = field h 8 1 := by
    apply BitVec.eq_of_getLsbD_eq
    intro i hi
    obtain rfl : i = 0 := by omega
    simp
  rw [hbit, pack_append_assoc, field_append h 8 1]
  exact pack_leading_rest op h rfl hop

/-- A register number that was joined from two fields splits into them again (R70). -/
theorem extract_joined (top : BitVec 1) (rest : BitVec 3) :
    (joined top rest).extractLsb' 3 1 = top ∧ (joined top rest).extractLsb' 0 3 = rest := by
  revert top rest
  decide

theorem pack_highRegs (op : BitVec 8) (hop : h &&& 0xFF00#16 = pack (op ++ 0#8)) :
    pack (op ++ (joined (field h 7 1) (field h 0 3)).extractLsb' 3 1 ++ field h 3 4 ++
      (joined (field h 7 1) (field h 0 3)).extractLsb' 0 3) = h := by
  obtain ⟨htop, hrest⟩ := extract_joined (field h 7 1) (field h 0 3)
  rw [htop, hrest, pack_append_assoc, pack_append_assoc, field_append h 3 4, field_append h 7 1]
  exact pack_leading_rest op h rfl hop

/-- BX and BLX fix the low three bits as well (R247, R248). -/
theorem pack_branchExchange (op : BitVec 9) (hop : h &&& 0xFF87#16 = pack (op ++ 0#7)) :
    pack (op ++ field h 3 4 ++ 0b000#3) = h := by
  have hmod : (pack (op ++ 0#7)).toNat % 2 ^ 7 = 0 := by
    have hself := congrArg BitVec.toNat (pack_and_highMask op 0#7)
    rw [and_highMask_toNat] at hself
    omega
  obtain ⟨hblock, hlow⟩ := (and_branchExchangeMask_eq_iff h _ hmod).mp hop
  have hzero : 0b000#3 = field h 0 3 := by
    apply BitVec.eq_of_toNat_eq
    simpa [field] using hlow.symm
  rw [hzero, pack_append_assoc, field_append h 3 4]
  exact pack_leading_rest op h rfl ((and_highMask_eq_iff h _ 7 hmod).mpr hblock)

end

/-! ## Every row writes back what it reads -/

/-- Each row of the list reads from a halfword that it accepts an instruction with that word. -/
def writesBack (l : List CatalogRow) : Prop := ∀ r ∈ l, ∀ h : Halfword, r.accepts h = true → encode (r.build h) = .one h

theorem writesBack_nil : writesBack [] := fun _ hr => absurd hr List.not_mem_nil

theorem writesBack_cons {form layout : String} {mask bits : Halfword} {build : Halfword → Instr} {l : List CatalogRow}
    (hrow : ∀ h, h &&& mask = bits → encode (build h) = .one h) (hl : writesBack l) :
    writesBack (⟨form, layout, mask, bits, build⟩ :: l) := by
  intro r hr h ha
  obtain rfl | hr := List.mem_cons.mp hr
  · exact hrow h ((accepts_iff _ h).mp ha)
  · exact hl r hr h ha

/-- Every row of the catalog reads an instruction whose word is the halfword read: each layout covers its halfword (R73). -/
theorem catalog_writesBack : writesBack catalog := by
  refine writesBack_cons (fun h hop => congrArg Opcode.one (pack_twoRegs h _ hop)) ?_
  iterate 3 refine writesBack_cons (fun h hop => congrArg Opcode.one (pack_fieldsImm5 h _ hop)) ?_
  iterate 4 refine writesBack_cons (fun h hop => congrArg Opcode.one (pack_threeFields h _ hop)) ?_
  iterate 4 refine writesBack_cons (fun h hop => congrArg Opcode.one (pack_regImm8 h _ hop)) ?_
  iterate 16 refine writesBack_cons (fun h hop => congrArg Opcode.one (pack_twoRegs h _ hop)) ?_
  iterate 3 refine writesBack_cons (fun h hop => congrArg Opcode.one (pack_highRegs h _ hop)) ?_
  iterate 2 refine writesBack_cons (fun h hop => congrArg Opcode.one (pack_branchExchange h _ hop)) ?_
  refine writesBack_cons (fun h hop => congrArg Opcode.one (pack_regImm8 h _ hop)) ?_
  iterate 8 refine writesBack_cons (fun h hop => congrArg Opcode.one (pack_threeFields h _ hop)) ?_
  iterate 6 refine writesBack_cons (fun h hop => congrArg Opcode.one (pack_fieldsImm5 h _ hop)) ?_
  iterate 4 refine writesBack_cons (fun h hop => congrArg Opcode.one (pack_regImm8 h _ hop)) ?_
  iterate 2 refine writesBack_cons (fun h hop => congrArg Opcode.one (pack_leading_rest (m := 7) _ h rfl hop)) ?_
  iterate 2 refine writesBack_cons (fun h hop => congrArg Opcode.one (pack_listRegs h _ hop)) ?_
  iterate 15 refine writesBack_cons (fun h hop => congrArg Opcode.one (pack_leading_rest (m := 8) _ h rfl hop)) ?_
  refine writesBack_cons (fun h hop => congrArg Opcode.one (pack_leading_rest (m := 11) _ h rfl hop)) ?_
  exact writesBack_nil

/-- The only term that no word decodes to is a left shift by 0 (R74, R184). -/
theorem eq_lslsImm_of_not_wf {i : Instr} (h : i.wf = false) : ∃ rd rm, i = .lslsImm rd rm 0#5 := by
  cases i
  case lslsImm rd rm imm5 => exact ⟨rd, rm, by rw [bne_eq_false_iff_eq.mp h]⟩
  all_goals cases h

/-- What decodes is well formed: the word of a left shift by 0 decodes to the move that has the same word. -/
theorem wf_of_decode {i : Instr} (h : decode (encode i) = .ok i) : i.wf = true := by
  by_contra hwf
  obtain ⟨rd, rm, rfl⟩ := eq_lslsImm_of_not_wf (Bool.not_eq_true _ ▸ hwf)
  rw [encode_lslsImm_zero, (hasWord_encode (.movsReg rd rm) rfl).2] at h
  cases h

theorem encode_of_decode {op : Opcode} {i : Instr} (h : decode op = .ok i) : encode i = op := by
  cases op with
  | one h1 =>
    obtain ⟨r, hfind, rfl⟩ := (decode_one_eq_ok h1 i).mp h
    have haccepts := List.find?_some hfind
    exact catalog_writesBack r (List.mem_of_find?_eq_some hfind) h1 haccepts
  | two h1 h2 =>
    have haccepts := (decode_two_eq_ok h1 h2).mp ⟨i, h⟩
    have hmasks := haccepts
    rw [acceptsBl, Bool.and_eq_true, beq_iff_eq, beq_iff_eq] at hmasks
    obtain ⟨hfirst, hsecond⟩ := hmasks
    rw [decode, if_pos haccepts] at h
    obtain rfl := Except.ok.inj h
    refine congrArg₂ Opcode.two ?_ (pack_leading_rest (m := 11) 0b11111#5 h2 rfl hsecond)
    rw [pack_append_assoc, field_append h1 10 1]
    exact pack_leading_rest (m := 11) 0b11110#5 h1 rfl hfirst

/-- Settles O2: each row writes back the halfword that it reads, BL both, and what decodes is well formed. -/
theorem encodeOfDecode : Obligations.EncodeOfDecode := by
  intro op i h
  have hencode := encode_of_decode h
  exact ⟨hencode, wf_of_decode (hencode ▸ h)⟩

/-! ## Bytes -/

/-- A halfword is its two bytes, the low one first (R42). -/
theorem append_bytes (h : Halfword) : h.extractLsb' 8 8 ++ h.extractLsb' 0 8 = h := by
  rw [field_append h 8 8, field]
  simp

/-- A halfword that decodes starts no pair (R69). -/
theorem startsPair_of_decode_one {h : Halfword} {i : Instr} (hd : decode (.one h) = .ok i) : startsPair h = false := by
  obtain ⟨r, hfind, -⟩ := (decode_one_eq_ok h i).mp hd
  have haccepts := List.find?_some hfind
  have hrange := (exists_accepts_iff h).mp ⟨r, List.mem_of_find?_eq_some hfind, haccepts⟩
  rw [← Bool.not_eq_true, startsPair_iff]
  omega

theorem startsPair_of_decode_two {h1 h2 : Halfword} {i : Instr} (hd : decode (.two h1 h2) = .ok i) :
    startsPair h1 = true :=
  (startsPair_iff h1).mpr ((acceptsBl_iff h1 h2).mp ((decode_two_eq_ok h1 h2).mp ⟨i, hd⟩)).1

/-- The bytes of an opcode that decodes are read as that opcode, and what follows is left over (R43, R69). -/
theorem decodeBytes_of_decode {op : Opcode} {i : Instr} (h : decode op = .ok i) (rest : List Byte) :
    decodeBytes (op.bytes ++ rest) = .ok (i, rest) := by
  cases op with
  | one h1 => simp [Opcode.bytes, halfwordBytes, decodeBytes, append_bytes, startsPair_of_decode_one h, h, Except.map]
  | two h1 h2 => simp [Opcode.bytes, halfwordBytes, decodeBytes, append_bytes, startsPair_of_decode_two h, h, Except.map]

/-- Settles O3: the bytes of a word that decodes. -/
theorem decodeBytesOfEncode : Obligations.DecodeBytesOfEncode := fun i rest hwf =>
  decodeBytes_of_decode (decodeOfEncode i hwf) rest

/-- Settles O8: each of the words is that of its instruction. -/
theorem decodedWords : Obligations.DecodedWords :=
  ⟨decodeOfEncode (.addsReg 0#3 1#3 2#3) rfl, decodeOfEncode (.orrs 0#3 1#3) rfl, decodeOfEncode (.lsrsImm 0#3 1#3 0#5) rfl,
    decodeOfEncode (.ldrImm 1#3 2#3 1#5) rfl, decodeOfEncode (.push true 0b00010000#8) rfl, decodeOfEncode (.beq 2#8) rfl,
    decodeOfEncode (.bl 0#1 0#10 0x7A#11) rfl, decodeOfEncode (.movsReg 1#3 2#3) rfl⟩

end Sys2Proof.Machine
end

section
/-! PROOFS. The memory contract (R44, R45): what a read and a write answer, by alignment, then by the map, then byte by byte; and
that a fetch reads what a store has left (R60). -/

namespace Sys2Proof.Machine

/-! ## The access check, by its hypotheses -/

section
variable (s : State) (acc : Access) (w : Width) (addr : Word)

theorem accessFault_of_misaligned (h : addr.toNat % w.bytes ≠ 0) :
    s.accessFault acc w addr = some (.alignmentFault s.pc addr w acc) := if_pos h

theorem accessFault_of_unmapped (ha : addr.toNat % w.bytes = 0) (h : ∃ k < w.bytes, s.mapped (byteAddr addr k) = false) :
    s.accessFault acc w addr = some (.memoryFault s.pc addr w acc) := by
  obtain ⟨k, hk, hun⟩ := h
  have hall : s.allMapped w.bytes addr = false := by
    rw [← Bool.not_eq_true, allMapped_iff]
    exact fun hmap => absurd (hmap k hk) (by rw [← byteAddr, hun]; decide)
  simp [State.accessFault, ha, hall]

theorem memRead_of_fault {f : FaultRecord} (h : s.accessFault acc w addr = some f) : s.memRead acc w addr = .error f := by
  simp [State.memRead, h]

theorem memRead_of_noFault (h : s.accessFault acc w addr = none) :
    s.memRead acc w addr =
      .ok (BitVec.ofNat 32 (composeLE (State.readBytes w.bytes addr s).1), (State.readBytes w.bytes addr s).2) := by
  simp [State.memRead, h]

theorem memWrite_of_fault (v : Word) {f : FaultRecord} (h : s.accessFault .write w addr = some f) :
    s.memWrite w addr v = .error f := by
  simp [State.memWrite, h]

theorem memWrite_of_noFault (v : Word) (h : s.accessFault .write w addr = none) :
    s.memWrite w addr v = .ok (State.writeBytes (splitLE w.bytes v) addr s) := by
  simp [State.memWrite, h]

end

theorem Width.bytes_le (w : Width) : w.bytes ≤ 4 := by cases w <;> decide

/-! ## The value that a read answers -/

/-- The bytes of a read, composed, fit the width and the Word (R42). -/
theorem readBytes_value (w : Width) (addr : Word) (s : State) :
    (BitVec.ofNat 32 (composeLE (State.readBytes w.bytes addr s).1)).toNat = composeLE (State.readBytes w.bytes addr s).1 ∧
      composeLE (State.readBytes w.bytes addr s).1 < 2 ^ (8 * w.bytes) := by
  have hlt := composeLE_lt (State.readBytes w.bytes addr s).1
  rw [readBytes_length, show 256 = 2 ^ 8 from rfl, ← Nat.pow_mul] at hlt
  have hle : 2 ^ (8 * w.bytes) ≤ 2 ^ 32 := Nat.pow_le_pow_right (by decide) (by have := w.bytes_le; omega)
  exact ⟨by rw [BitVec.toNat_ofNat]; exact Nat.mod_eq_of_lt (hlt.trans_le hle), hlt⟩

/-- Each byte of the value read is the one held at its address, or a draw (R44). -/
theorem readBytes_readsByte (w : Width) (addr : Word) (s : State) (k : Nat) (hk : k < w.bytes) :
    readsByte s (State.readBytes w.bytes addr s).2 (byteAddr addr k)
      (byteOf (BitVec.ofNat 32 (composeLE (State.readBytes w.bytes addr s).1)) k) := by
  have hbyte := List.getElem?_eq_getElem (show k < (State.readBytes w.bytes addr s).1.length by rwa [readBytes_length])
  rw [byteOf_of_composeLE _ _ (readBytes_value w addr s).1 k _ hbyte]
  exact readBytes_reads w.bytes addr s k _ hbyte

theorem readByte_draws_le_succ (s : State) (a : Word) : (s.readByte a).2.draws ≤ s.draws + 1 := by
  unfold State.readByte
  split
  · split
    · exact Nat.le_succ _
    · exact le_rfl
  · exact le_rfl

/-- A read takes at most one draw for each byte. -/
theorem readBytes_draws_le_add (n : Nat) (a : Word) (s : State) : (State.readBytes n a s).2.draws ≤ s.draws + n := by
  induction n generalizing a s with
  | zero => exact le_rfl
  | succ n ih =>
    calc (State.readBytes n (a + 1#32) (s.readByte a).2).2.draws
      _ ≤ (s.readByte a).2.draws + n := ih _ _
      _ ≤ s.draws + 1 + n := Nat.add_le_add_right (readByte_draws_le_succ s a) n
      _ = s.draws + (n + 1) := by omega

/-- Settles O23: the two faults of the access check, and the read byte by byte. -/
theorem memReadRule : Obligations.MemReadRule := by
  intro s acc w addr
  refine ⟨fun h => ?_, fun ha h => ?_, fun ha hm => ?_⟩
  · exact memRead_of_fault s acc w addr (accessFault_of_misaligned s acc w addr h)
  · exact memRead_of_fault s acc w addr (accessFault_of_unmapped s acc w addr ha h)
  · obtain ⟨hvalue, hlt⟩ := readBytes_value w addr s
    exact ⟨_, _, memRead_of_noFault s acc w addr (accessFault_eq_none s acc w addr ha hm), hvalue.trans_lt hlt,
      readBytes_readsByte w addr s, readBytes_eq _ _ _, readBytes_draws_le _ _ _, readBytes_draws_le_add _ _ _⟩

/-! ## What a write leaves -/

section
variable (n : Nat) (addr v : Word) (s : State)

/-- A write leaves byte `k` of the value at the address plus `k`, unless it is dropped there (R42, R45). -/
theorem peek_writeBytes_splitLE (hn : n ≤ 4) (k : Nat) (hk : k < n) :
    (State.writeBytes (splitLE n v) addr s).peek (byteAddr addr k) = writtenByte s (byteAddr addr k) (byteOf v k) := by
  have hlen := splitLE_length n v
  rw [peek_writeBytes _ addr s k (by omega) (by omega), splitLE_getElem]

theorem peek_writeBytes_splitLE_of_ne (x : Word) (h : ∀ k < n, x ≠ byteAddr addr k) :
    (State.writeBytes (splitLE n v) addr s).peek x = s.peek x :=
  peek_writeBytes_of_ne _ addr x s (by rwa [splitLE_length])

end

/-- Settles O24: the two faults of the access check, and the write byte by byte. -/
theorem memWriteRule : Obligations.MemWriteRule := by
  intro s w addr v
  refine ⟨fun h => ?_, fun ha h => ?_, fun ha hm => ?_⟩
  · exact memWrite_of_fault s w addr v (accessFault_of_misaligned s .write w addr h)
  · exact memWrite_of_fault s w addr v (accessFault_of_unmapped s .write w addr ha h)
  · exact ⟨_, memWrite_of_noFault s w addr v (accessFault_eq_none s .write w addr ha hm), writeBytes_eq _ _ _,
      peek_writeBytes_splitLE w.bytes addr v s w.bytes_le, peek_writeBytes_splitLE_of_ne w.bytes addr v s⟩

/-! ## A fetch of held bytes -/

/-- A fetch of a halfword that RAM or flash holds answers it, and takes no draw (R43, R44). -/
theorem fetchHalf_held (s : State) (a : Word) (v : Word) (j : Nat) (ha : (byteAddr a j).toNat % 2 = 0)
    (h : ∀ k < 2, s.plain (byteAddr a (j + k)) = true ∧ s.peek (byteAddr a (j + k)) = some (byteOf v (j + k))) :
    s.fetchHalf (byteAddr a j) = .ok (v.extractLsb' (8 * j) 16, s) := by
  have hbytes : ∀ k < Width.half.bytes, s.plain (byteAddr (byteAddr a j) k) = true ∧
      s.peek (byteAddr (byteAddr a j) k) = some (byteOf v (j + k)) := fun k hk => by
    rw [byteAddr_add]
    exact h k hk
  have hvalue : (BitVec.ofNat 32 (v.toNat / 2 ^ (8 * j) % 2 ^ (8 * 2))).extractLsb' 0 16 = v.extractLsb' (8 * j) 16 := by
    apply BitVec.eq_of_toNat_eq
    simp [BitVec.extractLsb'_toNat, Nat.shiftRight_eq_div_pow]
  rw [State.fetchHalf, memRead_held s .fetch .half _ _ ha hbytes, sum_byteOf]
  exact congrArg (fun h => Except.ok (h, s)) hvalue

/-- A store to an aligned and mapped address writes its bytes (R200). -/
theorem store_of_noFault (s : State) (rt : LowReg) (w : Width) (ea : Word) (h : s.accessFault .write w ea = none) :
    s.store rt w ea = State.writeBytes (splitLE w.bytes (s.reg (low rt))) ea s := by
  obtain ⟨f, hf, -⟩ | ⟨-, hs⟩ := store_cases s rt w ea
  · rw [h] at hf
    cases hf
  · exact hs

/-- Settles O12: a store to writable memory leaves its bytes, and the fetch reads the bytes that memory holds. -/
theorem storesAreSeenByFetch : Obligations.StoresAreSeenByFetch := by
  intro i s t rt w ea k hi ha hw ht hk hkw
  have hplain : ∀ j < w.bytes, s.plain (byteAddr ea j) = true := fun j hj => plain_of_writable s _ (hw j hj)
  have hnone := accessFault_eq_none s .write w ea ha fun j hj => mapped_of_plain s _ (hplain j hj)
  obtain rfl := Host.Outcome.next.inj (ht.symm.trans (exec_of_storeOf hi))
  rw [store_of_noFault s rt w ea hnone]
  have heven : (byteAddr ea k).toNat % 2 = 0 := by
    have hbytes : w.bytes = 2 ∨ w.bytes = 4 := by
      cases w with
      | byte => exact absurd hkw (by simp [Width.bytes])
      | half => exact .inl rfl
      | word => exact .inr rfl
    rw [byteAddr_toNat]
    rcases hbytes with h | h <;> rw [h] at ha <;> omega
  refine fetchHalf_held _ ea (s.reg (low rt)) k heven fun j hj => ?_
  have hlt : k + j < w.bytes := by omega
  constructor
  · rw [writeBytes_plain]
    exact hplain _ hlt
  · rw [peek_writeBytes_splitLE w.bytes ea _ s w.bytes_le _ hlt, writtenByte, if_pos (hw _ hlt)]

end Sys2Proof.Machine
end

section
/-! PROOFS. What an execute step ends in: one of a few operations on the state. From it, which flags (R26) and which registers an
instruction can write (R22, R32, R33, R106), and what a completed and a faulting instruction leave of the control state. -/

namespace Sys2Proof.Machine

/-! ## The operations that instructions end in -/

/-- The flags of an ALU result are those that the rules let an instruction write: the rest are the flags of the state (R26). -/
structure FlagsOf (i : Instr) (s : State) (r : AluResult) : Prop where
  writes : writesNoFlag i = false
  nz : writesNZOnly i = true → r.c = s.flagC ∧ r.v = s.flagV
  nzc : writesNZC i = true → r.v = s.flagV
  shift : ∀ rd rm, i = .lslsReg rd rm ∨ i = .lsrsReg rd rm ∨ i = .asrsReg rd rm ∨ i = .rors rd rm →
    (s.reg (low rm)).toNat % 256 = 0 → r.c = s.flagC

/-- The states that differ in low registers, memory and the count of draws only. -/
structure LowKept (s s1 : State) : Prop where
  eq : s1 = { s with regs := s1.regs, mem := s1.mem, draws := s1.draws }
  reg : ∀ r : RegNum, 8 ≤ r.toNat → s1.reg r = s.reg r
  wf : s.mem.wf → s1.mem.wf

/-- What the execute step of an instruction ends in. -/
inductive EndsIn (i : Instr) (s : State) : State → Prop where
  /-- A result in a low register, with flags. -/
  | result (rd : LowReg) (r : AluResult) : FlagsOf i s r → EndsIn i s (s.writeAlu rd r)
  /-- Flags only. -/
  | flags (r : AluResult) : FlagsOf i s r → EndsIn i s (s.setFlags r)
  /-- Low registers or memory, and no flag. -/
  | transfer (s1 : State) : LowKept s s1 → EndsIn i s s1
  /-- SP, after low registers or memory. -/
  | stackPointer (s1 : State) (v : Word) : LowKept s s1 → canWriteSP i = true → EndsIn i s (s1.setReg SP v)
  /-- Any register, of an instruction with a 4-bit destination field. -/
  | high (rd rm : RegNum) (v : Word) : i = .addHi rd rm ∨ i = .movHi rd rm → EndsIn i s (s.setHigh rd v)
  /-- A PC write. -/
  | jump (target : Word) : canWritePC i = true → EndsIn i s (s.writePC target)
  /-- A PC write after a write of LR. -/
  | call (link target : Word) : canWritePC i = true → canWriteLR i = true → EndsIn i s ((s.setReg LR link).writePC target)
  /-- A PC write after SP and low registers. -/
  | popPC (s1 : State) (v target : Word) : LowKept s s1 → canWritePC i = true → canWriteSP i = true →
      EndsIn i s ((s1.setReg SP v).writePC target)
  /-- A fault, which is none of a fetch, after low registers or memory. -/
  | fault (s1 : State) (f : FaultRecord) : LowKept s s1 → (∀ a ea w, f ≠ .alignmentFault a ea w .fetch) →
      EndsIn i s (s1.raise f)

/-! ## Results with kept flags -/

section
variable {i : Instr} {s : State}

/-- An instruction of none of R26's lists writes all four flags. -/
theorem flagsOf_all {r : AluResult} (hwrites : writesNoFlag i = false) (hnz : writesNZOnly i = false)
    (hnzc : writesNZC i = false) : FlagsOf i s r where
  writes := hwrites
  nz h := absurd h (by rw [hnz]; decide)
  nzc h := absurd h (by rw [hnzc]; decide)
  shift rd rm h := by rcases h with rfl | rfl | rfl | rfl <;> cases hnzc

/-- An instruction that writes N and Z keeps C and V (R14). -/
theorem flagsOf_nz {r : Word} (hwrites : writesNoFlag i = false) (hnzc : writesNZC i = false) :
    FlagsOf i s (aluOf r s.flagC s.flagV) where
  writes := hwrites
  nz _ := ⟨rfl, rfl⟩
  nzc h := absurd h (by rw [hnzc]; decide)
  shift rd rm h := by rcases h with rfl | rfl | rfl | rfl <;> cases hnzc

theorem endsIn_writeNZ {rd : LowReg} {r : Word} (hwrites : writesNoFlag i = false) (hnzc : writesNZC i = false) :
    EndsIn i s (s.writeNZ rd r) := by
  rw [writeNZ_eq_writeAlu]
  exact .result rd _ (flagsOf_nz hwrites hnzc)

/-- A shift keeps V, and C where its amount is 0 (R14, R180). -/
theorem endsIn_writeShift {rd : LowReg} {x : Word} {kind : ShiftKind} {n : Nat} (hwrites : writesNoFlag i = false)
    (hnz : writesNZOnly i = false)
    (hn : ∀ d m, i = .lslsReg d m ∨ i = .lsrsReg d m ∨ i = .asrsReg d m ∨ i = .rors d m → n = s.registerAmount m) :
    EndsIn i s (s.writeShift rd x kind n) := by
  rw [writeShift_eq_writeAlu rd rfl]
  refine .result rd _ ⟨hwrites, fun h => absurd h (by rw [hnz]; decide), fun _ => rfl, fun d m h hm => ?_⟩
  rw [← registerAmount_eq, ← hn d m h] at hm
  rw [hm]
  rfl

end

/-! ## Transfers -/

theorem LowKept.refl (s : State) : LowKept s s := ⟨rfl, fun _ _ => rfl, id⟩

theorem ne_low_of_high {r : RegNum} (hr : 8 ≤ r.toNat) (q : LowReg) : r ≠ low q := by
  rintro rfl
  have hq := q.isLt
  simp [low] at hr
  omega

/-- Writing registers below R8. -/
theorem LowKept.of_regs {s s1 : State} (heq : s1 = { s with regs := s1.regs, draws := s1.draws })
    (hreg : ∀ r : RegNum, 8 ≤ r.toNat → s1.reg r = s.reg r) : LowKept s s1 where
  eq := by rw [heq]
  reg := hreg
  wf h := by rwa [heq]

theorem lowKept_setLow (s : State) (rd : LowReg) (v : Word) : LowKept s (s.setReg (low rd) v) :=
  .of_regs rfl fun r hr => by rw [reg_setReg, if_neg (ne_low_of_high hr rd).symm]

theorem LowKept.of_mem {s s1 : State} (heq : s1 = { s with mem := s1.mem, draws := s1.draws })
    (hwf : s.mem.wf → s1.mem.wf) : LowKept s s1 where
  eq := by rw [heq]
  reg r _ := by rw [heq]; rfl
  wf := hwf

/-- The fault of an access is of that access. -/
theorem accessFault_ne_fetch {s : State} {acc : Access} {w : Width} {addr : Word} {f : FaultRecord}
    (h : s.accessFault acc w addr = some f) (hacc : acc ≠ .fetch) : ∀ a ea v, f ≠ .alignmentFault a ea v .fetch := by
  rintro a ea v rfl
  obtain ⟨-, hf⟩ | ⟨-, -, hf⟩ | ⟨-, -, hf⟩ := accessFault_cases s acc w addr <;> rw [h] at hf <;> cases hf
  exact hacc rfl

section
variable (i : Instr) (s : State)

theorem endsIn_load (rt : LowReg) (w : Width) (e : LoadExtend) (ea : Word) : EndsIn i s (s.load rt w e ea) := by
  obtain ⟨f, hf, h⟩ | ⟨v, s1, hread, h⟩ := load_cases s rt w e ea
  · rw [h]
    exact .fault s f (.refl s) (accessFault_ne_fetch hf (by decide))
  · obtain ⟨-, -, -, hs1⟩ := memRead_ok _ _ _ _ _ _ hread
    rw [h]
    refine .transfer _ (.of_regs (by rw [hs1]; rfl) fun r hr => ?_)
    rw [reg_setReg, if_neg (ne_low_of_high hr rt).symm, hs1]
    rfl

theorem endsIn_store (rt : LowReg) (w : Width) (ea : Word) : EndsIn i s (s.store rt w ea) := by
  obtain ⟨f, hf, h⟩ | ⟨-, h⟩ := store_cases s rt w ea
  · rw [h]
    exact .fault s f (.refl s) (accessFault_ne_fetch hf (by decide))
  · rw [h]
    exact .transfer _ (.of_mem (by rw [writeBytes_eq]) (wf_writeBytes _ _ s))

theorem endsIn_push (lr : Bool) (list : BitVec 8) (hi : canWriteSP i = true) : EndsIn i s (s.push lr list) := by
  obtain ⟨-, h⟩ | ⟨-, -, h⟩ | ⟨-, ok, a, rest, f, -, -, hf, h⟩ := push_cases s lr list
  · rw [h]
    exact .fault s _ (.refl s) (by simp)
  · rw [h]
    exact .stackPointer _ _ (.of_mem (by rw [storeWords_eq]) (wf_storeWords _ s)) hi
  · rw [h]
    exact .fault _ f (.of_mem (storeSome_eq _ s) (wf_storeSome _ s)) (accessFault_ne_fetch hf (by decide))

theorem not_mem_zip_listedRegs {list : BitVec 8} {vs : List Word} {r : RegNum} (hr : 8 ≤ r.toNat) :
    r ∉ ((listedRegs list).zip vs).map Prod.fst := by
  intro hmem
  obtain ⟨p, hp, rfl⟩ := List.mem_map.mp hmem
  have := listedRegs_low list p.1 (List.of_mem_zip hp).1
  omega

theorem endsIn_pop (pc : Bool) (list : BitVec 8) (hi : canWriteSP i = true) (hpc : pc = true → canWritePC i = true) :
    EndsIn i s (s.pop pc list) := by
  obtain ⟨-, h⟩ | ⟨-, -, vs, s1, hload, h⟩ | ⟨-, ok, a, rest, f, -, -, hf, vs, s1, hload, h⟩ := pop_cases s pc list
  · rw [h]
    exact .fault s _ (.refl s) (by simp)
  · have hs1 := loadWords_state hload
    have hkept : LowKept s (State.setRegs ((listedRegs list).zip vs) s1) := by
      refine .of_regs (by rw [setRegs_eq, hs1]) fun r hr => ?_
      rw [setRegs_reg _ s1 r (not_mem_zip_listedRegs hr), hs1]
      rfl
    rw [h]
    cases pc with
    | true => exact .popPC _ _ _ hkept (hpc rfl) hi
    | false => exact .stackPointer _ _ hkept hi
  · have hs1 := loadWords_state hload
    rw [h]
    refine .fault _ f (.of_regs (by rw [setSome_eq, hs1]) fun r hr => ?_) (accessFault_ne_fetch hf (by decide))
    rw [setSome_reg _ s1 r (not_mem_zip_listedRegs hr), hs1]
    rfl

theorem endsIn_branchIf (c : Cond) (imm8 : BitVec 8) (hi : canWritePC i = true) : EndsIn i s (s.branchIf c imm8) := by
  obtain ⟨-, h⟩ | ⟨-, h⟩ := branchIf_cases s c imm8
  · rw [h]
    exact .jump _ hi
  · rw [h]
    exact .transfer s (.refl s)

end

section
variable {i : Instr} {s t : State}

/-- Every execute step ends in one of the operations. -/
theorem exec_endsIn (h : exec i s = .next t) : EndsIn i s t := by
  cases i
  case addsReg | subsReg | addsImm3 | subsImm3 | addsImm8 | subsImm8 | adcs | sbcs | rsbs =>
    obtain rfl := Host.Outcome.next.inj h
    exact .result _ _ (flagsOf_all rfl rfl rfl)
  case cmpImm8 | cmpReg | cmn | cmpHi =>
    obtain rfl := Host.Outcome.next.inj h
    exact .flags _ (flagsOf_all rfl rfl rfl)
  case ands | eors | orrs | bics | mvns | movsImm8 | movsReg | muls =>
    obtain rfl := Host.Outcome.next.inj h
    exact endsIn_writeNZ rfl rfl
  case tst =>
    obtain rfl := Host.Outcome.next.inj h
    rw [setNZ_eq_setFlags]
    exact .flags _ (flagsOf_nz rfl rfl)
  case lslsImm | lsrsImm | asrsImm =>
    obtain rfl := Host.Outcome.next.inj h
    exact endsIn_writeShift rfl rfl fun _ _ hi => by simp at hi
  case lslsReg | lsrsReg | asrsReg | rors =>
    obtain rfl := Host.Outcome.next.inj h
    refine endsIn_writeShift rfl rfl fun _ _ hi => ?_
    obtain ⟨-, rfl⟩ := by simpa using hi
    rfl
  case adr | addRdSp =>
    obtain rfl := Host.Outcome.next.inj h
    exact .transfer _ (lowKept_setLow s _ _)
  case addSpImm | subSpImm =>
    obtain rfl := Host.Outcome.next.inj h
    exact .stackPointer s _ (.refl s) rfl
  case addHi rd rm =>
    obtain rfl := Host.Outcome.next.inj h
    exact .high rd rm _ (.inl rfl)
  case movHi rd rm =>
    obtain rfl := Host.Outcome.next.inj h
    exact .high rd rm _ (.inr rfl)
  case ldrImm | ldrbImm | ldrhImm | ldrReg | ldrbReg | ldrhReg | ldrsbReg | ldrshReg | ldrSp | ldrLit =>
    obtain rfl := Host.Outcome.next.inj h
    exact endsIn_load _ s _ _ _ _
  case strImm | strbImm | strhImm | strReg | strbReg | strhReg | strSp =>
    obtain rfl := Host.Outcome.next.inj h
    exact endsIn_store _ s _ _ _
  case push lr list =>
    obtain rfl := Host.Outcome.next.inj h
    exact endsIn_push _ s lr list rfl
  case pop pc list =>
    obtain rfl := Host.Outcome.next.inj h
    exact endsIn_pop _ s pc list rfl id
  case beq | bne | bcs | bcc | bmi | bpl | bvs | bvc | bhi | bls | bge | blt | bgt | ble | bal =>
    obtain rfl := Host.Outcome.next.inj h
    exact endsIn_branchIf _ s _ _ rfl
  case b | bx =>
    obtain rfl := Host.Outcome.next.inj h
    exact .jump _ rfl
  case bl | blx =>
    obtain rfl := Host.Outcome.next.inj h
    exact .call _ _ rfl rfl

/-! ## Flags -/

theorem LowKept.apsr {s1 : State} (h : LowKept s s1) : s1.apsr = s.apsr := by rw [h.eq]
theorem LowKept.run {s1 : State} (h : LowKept s s1) : s1.run = s.run := by rw [h.eq]
theorem LowKept.fault {s1 : State} (h : LowKept s s1) : s1.fault = s.fault := by rw [h.eq]
theorem LowKept.params {s1 : State} (h : LowKept s s1) : s1.params = s.params := by rw [h.eq]
theorem LowKept.wrotePC {s1 : State} (h : LowKept s s1) : s1.wrotePC = s.wrotePC := by rw [h.eq]
theorem LowKept.pc {s1 : State} (h : LowKept s s1) : s1.pc = s.pc := h.reg PC (by decide)

theorem setHigh_apsr (r : RegNum) (v : Word) : (s.setHigh r v).apsr = s.apsr := by
  by_cases h : r = PC
  · rw [h, setHigh_pc, writePC_apsr]
  · rw [setHigh_of_ne s r v h, setReg_apsr]

theorem setHigh_run (r : RegNum) (v : Word) : (s.setHigh r v).run = s.run := by
  by_cases h : r = PC
  · rw [h, setHigh_pc, writePC_run]
  · rw [setHigh_of_ne s r v h, setReg_run]

theorem setHigh_params (r : RegNum) (v : Word) : (s.setHigh r v).params = s.params := by
  by_cases h : r = PC
  · rw [h, setHigh_pc, writePC_params]
  · rw [setHigh_of_ne s r v h, setReg_params]

/-- An instruction leaves APSR, or writes flags that its rule allows. -/
theorem exec_flags_cases (h : exec i s = .next t) :
    t.apsr = s.apsr ∨ ∃ r, FlagsOf i s r ∧ t.flagC = r.c ∧ t.flagV = r.v := by
  cases exec_endsIn h with
  | result rd r hr => exact .inr ⟨r, hr, setNZCV_flagC _ _ _ _ _, setNZCV_flagV _ _ _ _ _⟩
  | flags r hr => exact .inr ⟨r, hr, setNZCV_flagC _ _ _ _ _, setNZCV_flagV _ _ _ _ _⟩
  | transfer s1 hk => exact .inl hk.apsr
  | stackPointer s1 v hk => exact .inl hk.apsr
  | high rd rm v => exact .inl (setHigh_apsr rd v)
  | jump target => exact .inl rfl
  | call link target => exact .inl rfl
  | popPC s1 v target hk => exact .inl hk.apsr
  | fault s1 f hk => exact .inl hk.apsr

end

/-- Settles O54: APSR is left, or the flags of the result are those that the rule of the instruction allows. -/
theorem flagWriters : Obligations.FlagWriters := by
  intro i s t h
  obtain hkept | ⟨r, hr, hc, hv⟩ := exec_flags_cases h
  · have hC : t.flagC = s.flagC := congrArg (·.getLsbD 29) hkept
    have hV : t.flagV = s.flagV := congrArg (·.getLsbD 28) hkept
    exact ⟨fun _ => hkept, fun _ => ⟨hC, hV⟩, fun _ => hV, fun _ _ _ _ => hC⟩
  · refine ⟨fun hno => absurd hno (by rw [hr.writes]; decide), fun hnz => ?_, fun hnzc => hv.trans (hr.nzc hnzc),
      fun rd rm hi hm => hc.trans (hr.shift rd rm hi hm)⟩
    obtain ⟨hrc, hrv⟩ := hr.nz hnz
    exact ⟨hc.trans hrc, hv.trans hrv⟩

/-! ## Registers -/

section
variable {i : Instr} {s t : State}

theorem setReg_reg_cases (s : State) (r q : RegNum) (v : Word) : r = q ∨ (s.setReg q v).reg r = s.reg r := by
  by_cases h : r = q
  · exact .inl h
  · exact .inr (by rw [reg_setReg, if_neg (Ne.symm h)])

theorem writePC_reg_cases (s : State) (r : RegNum) (v : Word) : r = PC ∨ (s.writePC v).reg r = s.reg r :=
  setReg_reg_cases s r PC (clearBit0 v)

theorem setHigh_reg_cases (s : State) (r q : RegNum) (v : Word) : r = q ∨ (s.setHigh q v).reg r = s.reg r := by
  by_cases h : q = PC
  · rw [h, setHigh_pc]
    exact writePC_reg_cases s r v
  · rw [setHigh_of_ne s q v h]
    exact setReg_reg_cases s r q v

/-- The forms that can write a register above R7. -/
def canWriteHigh (i : Instr) (r : RegNum) : Prop :=
  (∃ rm, i = .addHi r rm ∨ i = .movHi r rm) ∨ (r = SP ∧ canWriteSP i = true) ∨ (r = LR ∧ canWriteLR i = true) ∨
    (r = PC ∧ canWritePC i = true)

/-- An instruction changes a register above R7 only if its form can write it (R22, R32, R33, R106, R107). -/
theorem exec_reg_cases (h : exec i s = .next t) (r : RegNum) (hr : 8 ≤ r.toNat) :
    canWriteHigh i r ∨ t.reg r = s.reg r := by
  cases exec_endsIn h with
  | result rd res => exact .inr ((lowKept_setLow s rd res.value).reg r hr)
  | flags => exact .inr rfl
  | transfer s1 hk => exact .inr (hk.reg r hr)
  | fault s1 f hk => exact .inr (hk.reg r hr)
  | high rd rm v hi => exact (setHigh_reg_cases s r rd v).imp (fun he => .inl ⟨rm, by rwa [he]⟩) id
  | jump target hpc => exact (writePC_reg_cases s r target).imp (fun he => .inr (.inr (.inr ⟨he, hpc⟩))) id
  | stackPointer s1 v hk hsp =>
    exact (setReg_reg_cases s1 r SP v).imp (fun he => .inr (.inl ⟨he, hsp⟩)) (·.trans (hk.reg r hr))
  | call link target hpc hlr =>
    obtain he | hkept := writePC_reg_cases (s.setReg LR link) r target
    · exact .inl (.inr (.inr (.inr ⟨he, hpc⟩)))
    · exact (setReg_reg_cases s r LR link).imp (fun he => .inr (.inr (.inl ⟨he, hlr⟩))) (hkept.trans ·)
  | popPC s1 v target hk hpc hsp =>
    obtain he | hkept := writePC_reg_cases (s1.setReg SP v) r target
    · exact .inl (.inr (.inr (.inr ⟨he, hpc⟩)))
    · exact (setReg_reg_cases s1 r SP v).imp (fun he => .inr (.inl ⟨he, hsp⟩)) fun h1 => hkept.trans (h1.trans (hk.reg r hr))

theorem canWriteSP_of_high (h : canWriteHigh i SP) : canWriteSP i = true := by
  obtain ⟨rm, rfl | rfl⟩ | ⟨-, hi⟩ | ⟨he, -⟩ | ⟨he, -⟩ := h
  · rfl
  · rfl
  · exact hi
  · cases he
  · cases he

theorem canWriteLR_of_high (h : canWriteHigh i LR) : canWriteLR i = true := by
  obtain ⟨rm, rfl | rfl⟩ | ⟨he, -⟩ | ⟨-, hi⟩ | ⟨he, -⟩ := h
  · rfl
  · rfl
  · cases he
  · exact hi
  · cases he

theorem writePC_even (s : State) (v : Word) : (s.writePC v).pc.getLsbD 0 = false := by
  rw [pc_writePC, clearBit0_even]

/-- Every PC write leaves PC even and sets the mark of the cycle; what is none leaves both (R31, R106). -/
theorem exec_pc_cases (h : exec i s = .next t) :
    (t.pc = s.pc ∧ t.wrotePC = s.wrotePC) ∨
    (canWritePC i = true ∧ t.pc.getLsbD 0 = false ∧ t.wrotePC = true ∧ t.fault = s.fault) := by
  cases exec_endsIn h with
  | result rd r => exact .inl ⟨(lowKept_setLow s rd r.value).pc, rfl⟩
  | flags => exact .inl ⟨rfl, rfl⟩
  | transfer s1 hk => exact .inl ⟨hk.pc, hk.wrotePC⟩
  | fault s1 f hk => exact .inl ⟨hk.pc, hk.wrotePC⟩
  | stackPointer s1 v hk => exact .inl ⟨by simp [hk.pc], hk.wrotePC⟩
  | jump target hpc => exact .inr ⟨hpc, writePC_even s target, rfl, rfl⟩
  | call link target hpc => exact .inr ⟨hpc, writePC_even _ target, rfl, rfl⟩
  | popPC s1 v target hk hpc => exact .inr ⟨hpc, writePC_even _ target, rfl, hk.fault⟩
  | high rd rm v hi =>
    by_cases hPC : rd = PC
    · subst hPC
      refine .inr ⟨?_, writePC_even s v, rfl, rfl⟩
      rcases hi with rfl | rfl <;> rfl
    · rw [setHigh_of_ne s rd v hPC]
      exact .inl ⟨by simp [hPC], rfl⟩

/-- An instruction completes, with the run state and the fault record as they were, or it halts the core with a fault, which is
none of a fetch (R30, R264). -/
theorem exec_control (h : exec i s = .next t) :
    (t.run = s.run ∧ t.fault = s.fault) ∨
    (∃ f, t.fault = some f ∧ t.run = .halted ∧ ∀ a ea w, f ≠ .alignmentFault a ea w .fetch) := by
  cases exec_endsIn h with
  | result | flags | jump | call => exact .inl ⟨rfl, rfl⟩
  | transfer s1 hk => exact .inl ⟨hk.run, hk.fault⟩
  | stackPointer s1 v hk => exact .inl ⟨hk.run, hk.fault⟩
  | popPC s1 v target hk => exact .inl ⟨hk.run, hk.fault⟩
  | fault s1 f hk hf => exact .inr ⟨f, rfl, rfl, hf⟩
  | high rd rm v => exact .inl ⟨setHigh_run rd v, setHigh_fault s rd v⟩

theorem exec_params (h : exec i s = .next t) : t.params = s.params := by
  cases exec_endsIn h with
  | result | flags | jump | call => rfl
  | transfer s1 hk => exact hk.params
  | stackPointer s1 v hk => exact hk.params
  | popPC s1 v target hk => exact hk.params
  | fault s1 f hk => exact hk.params
  | high rd rm v => exact setHigh_params rd v

/-- An instruction keeps memory in its canonical form. -/
theorem exec_wf (h : exec i s = .next t) (hwf : s.mem.wf) : t.mem.wf := by
  cases exec_endsIn h with
  | result | flags | jump | call => exact hwf
  | transfer s1 hk => exact hk.wf hwf
  | stackPointer s1 v hk => exact hk.wf hwf
  | popPC s1 v target hk => exact hk.wf hwf
  | fault s1 f hk => exact hk.wf hwf
  | high rd rm v => rwa [setHigh_mem]

end

/-- Settles O55: a high register changes only by a form that can write it, and memory only by the stores and PUSH. -/
theorem registerWriters : Obligations.RegisterWriters := by
  intro i s t h
  refine ⟨fun r hr hle hne => ?_, fun hne => ?_, fun hne => ?_, fun hne => ?_, fun hne => ?_, exec_params h⟩
  · obtain hi | ⟨rfl, -⟩ | ⟨rfl, -⟩ | ⟨rfl, -⟩ := (exec_reg_cases h r hr).resolve_right hne
    · exact hi
    all_goals exact absurd hle (by decide)
  · exact canWriteSP_of_high ((exec_reg_cases h SP (by decide)).resolve_right hne)
  · exact canWriteLR_of_high ((exec_reg_cases h LR (by decide)).resolve_right hne)
  · obtain ⟨hpc, hmark⟩ | ⟨hi, -⟩ := exec_pc_cases h
    · exact absurd hne (not_or.mpr ⟨not_not.mpr hpc, not_not.mpr hmark⟩)
    · exact hi
  · by_contra hi
    exact hne (exec_mem i s t (Bool.not_eq_true _ ▸ hi) h)

end Sys2Proof.Machine
end

section
/-! PROOFS. The cycle (R100 to R106): the fetch of held bytes and its faults, what a step does with the decoded instruction, and
the invariant that every step keeps. -/

namespace Sys2Proof.Machine

/-! ## Even addresses -/

theorem even_iff (v : Word) : v.getLsbD 0 = false ↔ v.toNat % 2 = 0 := by
  rw [← BitVec.testBit_toNat, Nat.testBit_zero, decide_eq_false_iff_not]
  omega

theorem even_add {v : Word} (h : v.getLsbD 0 = false) (n : Nat) (hn : n % 2 = 0) :
    (v + BitVec.ofNat 32 n).getLsbD 0 = false := by
  rw [even_iff] at h ⊢
  rw [BitVec.toNat_add, BitVec.toNat_ofNat]
  omega

theorem opcode_len_even (op : Opcode) : op.len % 2 = 0 := by cases op <;> simp [Opcode.len]

/-! ## The fetch -/

/-- A fetch at an even address raises no AlignmentFault (R48). -/
theorem fetchHalf_error_of_even {s : State} {a : Word} {f : FaultRecord} (ha : a.getLsbD 0 = false)
    (h : s.fetchHalf a = .error f) : f = .memoryFault s.pc a .half .fetch := by
  have hf := fetchHalf_error h
  obtain ⟨hmis, -⟩ | ⟨-, -, he⟩ | ⟨-, -, he⟩ := accessFault_cases s .fetch .half a
  · exact absurd ((even_iff a).mp ha) hmis
  · exact Option.some.inj (hf.symm.trans he)
  · rw [hf] at he
    cases he

theorem fetchOp_error_of_even {s s1 : State} {f : FaultRecord} (hpc : s.pc.getLsbD 0 = false)
    (h : s.fetchOp = (s1, .error f)) : ∃ a addr, f = .memoryFault a addr .half .fetch := by
  unfold State.fetchOp at h
  split at h
  next g hg =>
    obtain ⟨-, hgf⟩ := Prod.mk.inj h
    obtain rfl := Except.error.inj hgf
    exact ⟨_, _, fetchHalf_error_of_even hpc hg⟩
  next h1 s2 h2 =>
    split at h
    next =>
      split at h
      next g hg =>
        obtain ⟨-, hgf⟩ := Prod.mk.inj h
        obtain rfl := Except.error.inj hgf
        exact ⟨_, _, fetchHalf_error_of_even (even_add hpc 2 rfl) hg⟩
      next => cases h
    next => cases h

/-- A fetch of a halfword whose bytes RAM or flash holds answers it, and takes no draw (R43, R44). -/
theorem fetchHalf_of_bytes {s : State} {a : Word} {h : Halfword} (ha : a.getLsbD 0 = false)
    (hk : ∀ k < 2, s.plain (byteAddr a k) = true ∧ s.peek (byteAddr a k) = (halfwordBytes h)[k]?) :
    s.fetchHalf a = .ok (h, s) := by
  have hbyte : ∀ k < 2, (halfwordBytes h)[k]? = some (byteOf (h.setWidth 32) k) := by
    have hextract (lo : Nat) (hlo : lo + 8 ≤ 16) : (h.setWidth 32).extractLsb' lo 8 = h.extractLsb' lo 8 :=
      BitVec.extractLsb'_setWidth_of_le (by omega)
    intro k hk
    obtain rfl | rfl : k = 0 ∨ k = 1 := by omega
    · exact congrArg some (hextract 0 (by decide)).symm
    · exact congrArg some (hextract 8 (by decide)).symm
  have hfetch := fetchHalf_held s a (h.setWidth 32) 0 (by rw [byteAddr_zero]; exact (even_iff a).mp ha) fun k hlt => by
    rw [Nat.zero_add, ← hbyte k hlt]
    exact hk k hlt
  rw [byteAddr_zero] at hfetch
  rw [hfetch]
  simp [BitVec.extractLsb'_setWidth_of_le]

/-- A fetch of an opcode that decodes and whose bytes are held answers it, and changes nothing (R69, R102). -/
theorem fetchOp_held {s : State} {op : Opcode} {i : Instr} (hpc : s.pc.getLsbD 0 = false) (hdec : decode op = .ok i)
    (h : ∀ k < op.len, s.plain (byteAddr s.pc k) = true ∧ s.peek (byteAddr s.pc k) = op.bytes[k]?) :
    s.fetchOp = (s, .ok op) := by
  cases op with
  | one h1 =>
    have hfirst : s.fetchHalf s.pc = .ok (h1, s) := fetchHalf_of_bytes hpc h
    simp [State.fetchOp, hfirst, startsPair_of_decode_one hdec]
  | two h1 h2 =>
    have hfirst : s.fetchHalf s.pc = .ok (h1, s) := fetchHalf_of_bytes hpc fun k hk => by
      rw [(h k (by simp [Opcode.len]; omega)).2]
      refine ⟨(h k (by simp [Opcode.len]; omega)).1, ?_⟩
      obtain rfl | rfl : k = 0 ∨ k = 1 := by omega
      · rfl
      · rfl
    have hsecond : s.fetchHalf (s.pc + 2#32) = .ok (h2, s) := fetchHalf_of_bytes (even_add hpc 2 rfl) fun k hk => by
      have haddr : byteAddr (s.pc + 2#32) k = byteAddr s.pc (2 + k) := byteAddr_add s.pc 2 k
      rw [haddr, (h (2 + k) (by simp [Opcode.len]; omega)).2]
      refine ⟨(h (2 + k) (by simp [Opcode.len]; omega)).1, ?_⟩
      obtain rfl | rfl : k = 0 ∨ k = 1 := by omega
      · rfl
      · rfl
    simp [State.fetchOp, hfirst, hsecond, startsPair_of_decode_two hdec]

/-! ## The step -/

section
variable {s : State} (hd : s.driven = true) (hh : s.atHaltAddr = false)
include hd hh

theorem step_of_fetch_fault {s1 : State} {f : FaultRecord} (hf : s.beginCycle.fetchOp = (s1, .error f)) :
    step s = .next (s1.raise f) := by
  simp [step, cycle, hd, hh, hf]

theorem step_of_exec {s1 t : State} {op : Opcode} {i : Instr} (hf : s.beginCycle.fetchOp = (s1, .ok op))
    (hdec : decode op = .ok i) (ht : exec i s1 = .next t) : step s = .next (t.retire op.len) := by
  simp [step, cycle, hd, hh, hf, hdec, ht]

end

/-- Settles O9: the fetch of held bytes changes nothing, and the end of the cycle has three cases. -/
theorem stepRunsDecodedInstruction : Obligations.StepRunsDecodedInstruction := by
  intro s op i hd hh hpc hdec hheld t ht
  have hfetch : s.beginCycle.fetchOp = (s.beginCycle, .ok op) := fetchOp_held (s := s.beginCycle) hpc hdec hheld
  rw [step_of_exec hd hh hfetch hdec ht]
  obtain ⟨hf, h⟩ | ⟨hf, hw, h⟩ | ⟨hf, hw, h⟩ := retire_cases t op.len
  · rw [h, if_pos hf]
  · rw [h, if_neg (not_not.mpr hf), if_pos hw]
  · rw [h, if_neg (not_not.mpr hf), hw]
    rfl

/-- Settles O30: the fetch meets the fault of its first or of its second halfword before anything of the instruction. -/
theorem fetchFaults : Obligations.FetchFaults := by
  constructor
  · intro s hd hh hpc hun
    have hfault := memRead_of_fault s.beginCycle .fetch .half s.pc
      (accessFault_of_unmapped s.beginCycle .fetch .half s.pc ((even_iff _).mp hpc) hun)
    have hfetch : s.beginCycle.fetchOp = (s.beginCycle, .error (.memoryFault s.pc s.pc .half .fetch)) := by
      simp [State.fetchOp, State.fetchHalf, hfault]
    exact ⟨_, step_of_fetch_fault hd hh hfetch, rfl, rfl, rfl, rfl, rfl⟩
  · intro s h1 hd hh hpc hpair hheld hun
    have hfirst : s.beginCycle.fetchHalf s.pc = .ok (h1, s.beginCycle) := fetchHalf_of_bytes hpc hheld
    have hfault := memRead_of_fault s.beginCycle .fetch .half (s.pc + 2#32)
      (accessFault_of_unmapped s.beginCycle .fetch .half _ ((even_iff _).mp (even_add hpc 2 rfl)) hun)
    have hsecond : s.beginCycle.fetchHalf (s.pc + 2#32) = .error (.memoryFault s.pc (s.pc + 2#32) .half .fetch) := by
      simp [State.fetchHalf, hfault]
    have hfetch : s.beginCycle.fetchOp = (s.beginCycle, .error (.memoryFault s.pc (s.pc + 2#32) .half .fetch)) := by
      simp [State.fetchOp, hfirst, hpair, hsecond]
    exact ⟨_, step_of_fetch_fault hd hh hfetch, rfl, rfl, rfl, rfl, rfl⟩

/-- Settles O10: every execute step and every cycle answers a next state. -/
theorem nothingStopsTheModel : Obligations.NothingStopsTheModel := by
  refine ⟨fun i s => ?_, fun s => ?_⟩
  · obtain ⟨t, ht, -⟩ := exec_withApsrLow s 0#28 i
    exact ⟨t, ht⟩
  · obtain ⟨t, ht, -⟩ := step_withApsrLow s 0#28
    exact ⟨t, ht⟩

theorem driven_iff (s : State) : s.driven = true ↔ s.run = .running ∧ s.fault = none := by
  simp [State.driven]

/-- What a step has done: nothing while the machine is not driven, the halt at HALT_ADDR, a fault of the fetch or of the decoder,
or the execute step of an instruction and the end of its cycle. -/
inductive Stepped (s : State) : State → Prop where
  | idle : s.driven = false → Stepped s s
  | halt : s.driven = true → s.atHaltAddr = true → Stepped s s.halt
  | fetchFault (s1 : State) (f : FaultRecord) : s.driven = true → s.beginCycle.fetchOp = (s1, .error f) →
      Stepped s (s1.raise f)
  | undefined (s1 : State) (op : Opcode) : s.driven = true → s.beginCycle.fetchOp = (s1, .ok op) →
      Stepped s (s1.raise (s1.undefinedFault op))
  | exec (s1 s2 : State) (op : Opcode) (i : Instr) : s.driven = true → s.beginCycle.fetchOp = (s1, .ok op) →
      exec i s1 = .next s2 → Stepped s (s2.retire op.len)

theorem stepped_of_step {s t : State} (h : step s = .next t) : Stepped s t := by
  have hnext {u : State} (hu : step s = .next u) : t = u := Host.Outcome.next.inj (h.symm.trans hu)
  obtain ⟨hd, hs⟩ | ⟨hd, hh, hs⟩ | ⟨hd, -, ⟨s1, f, hf, hs⟩ | ⟨s1, op, r, hf, -, hs⟩ | ⟨s1, op, i, hf, -, hs⟩⟩ := step_cases s
  · rw [hnext hs]
    exact .idle hd
  · rw [hnext hs]
    exact .halt hd hh
  · rw [hnext hs]
    exact .fetchFault s1 f hd hf
  · rw [hnext hs]
    exact .undefined s1 op hd hf
  · obtain ⟨s2, hexec⟩ := nothingStopsTheModel.1 i s1
    rw [hnext (hs s2 hexec)]
    exact .exec s1 s2 op i hd hf hexec

theorem retire_run (s : State) (len : Nat) : (s.retire len).run = s.run := by
  obtain ⟨-, h⟩ | ⟨-, -, h⟩ | ⟨-, -, h⟩ := retire_cases s len <;> simp [h]

/-! ## Where a run ends -/

/-- Settles O11: outside Running nothing is driven, at HALT_ADDR the core halts, and an instruction that completes leaves the run
state. -/
theorem endOfRun : Obligations.EndOfRun := by
  refine ⟨fun s hrun => ?_, fun s hrun hf hh => ?_, fun s t hrun hh h ht => ?_⟩
  · have hd : s.driven = false := by simp [State.driven, hrun]
    simp [step, hd]
  · have hd : s.driven = true := (driven_iff s).mpr ⟨hrun, hf⟩
    have hhalt : s.atHaltAddr = true := by simp [State.atHaltAddr, State.pc, hh]
    simp [step, hd, hhalt, State.halt]
  · cases stepped_of_step h with
    | idle => exact absurd hrun ht
    | halt _ hhalt => simp [State.atHaltAddr, hh] at hhalt
    | fetchFault | undefined => exact Option.some_ne_none _
    | exec s1 s2 op i _ hf hexec =>
      have hs1 : s1.run = s.run := by rw [fetchOp_state _ _ _ hf]; rfl
      rw [retire_run] at ht
      rw [retire_fault]
      obtain ⟨hr, -⟩ | ⟨f, hfault, -⟩ := exec_control hexec
      · exact absurd (hr.trans (hs1.trans hrun)) ht
      · exact hfault ▸ Option.some_ne_none f

/-- Settles O16: a fetch at an even PC raises no AlignmentFault, and no other access is a fetch. -/
theorem fetchIsAligned : Obligations.FetchIsAligned := by
  intro s t a ea w hpc hs h
  cases stepped_of_step h with
  | idle | halt => simp [hs]
  | fetchFault s1 f _ hf =>
    obtain ⟨b, addr, rfl⟩ := fetchOp_error_of_even (s := s.beginCycle) hpc hf
    simp
  | undefined s1 op => cases op <;> simp [State.undefinedFault]
  | exec s1 s2 op i _ hf hexec =>
    obtain ⟨hs1, -⟩ := fetchOp_kept hf
    rw [retire_fault]
    obtain ⟨-, hfault⟩ | ⟨f, hfault, -, hne⟩ := exec_control hexec
    · simp [hfault, hs1, hs]
    · rw [hfault]
      exact fun he => hne a ea w (Option.some.inj he)

/-! ## The invariant -/

/-- The end of the cycle makes the invariant of what the execute step leaves. -/
theorem inv_retire {i : Instr} {s t : State} {op : Opcode} (h : exec i s = .next t) (hpc : s.pc.getLsbD 0 = false)
    (hwf : s.mem.wf) (hf : s.fault = none) (hw : s.wrotePC = false) : Inv (t.retire op.len) := by
  have htwf := exec_wf h hwf
  have hmark := exec_pc_cases h
  obtain ⟨htf, hr⟩ | ⟨htf, htw, hr⟩ | ⟨htf, htw, hr⟩ := retire_cases t op.len
  · obtain ⟨htpc, htw⟩ | ⟨-, -, -, hkept⟩ := hmark
    · obtain ⟨-, hkept⟩ | ⟨f, -, hrun, -⟩ := exec_control h
      · exact absurd (hkept.trans hf) htf
      · rw [hr]
        exact ⟨htpc ▸ hpc, htwf, fun _ => hrun, htw.trans hw⟩
    · exact absurd (hkept.trans hf) htf
  · obtain ⟨-, hkept⟩ | ⟨-, heven, -⟩ := hmark
    · rw [hkept, hw] at htw
      cases htw
    · rw [hr]
      exact ⟨heven, htwf, fun hne => absurd htf hne, rfl⟩
  · obtain ⟨htpc, -⟩ | ⟨-, -, hset, -⟩ := hmark
    · rw [hr]
      refine ⟨?_, htwf, fun hne => absurd htf hne, htw⟩
      rw [pc_setReg, if_pos rfl]
      exact even_add (htpc ▸ hpc) op.len (opcode_len_even op)
    · rw [htw] at hset
      cases hset

/-- Settles O13: a fault leaves PC, memory and the mark, and the execute step is followed by the end of the cycle. -/
theorem stepKeepsInv : Obligations.StepKeepsInv := by
  rintro s t ⟨hpc, hwf, hrun, hw⟩ h
  have hraise {s1 : State} {res : Except FaultRecord Opcode} (hf : s.beginCycle.fetchOp = (s1, res)) (f : FaultRecord) :
      Inv (s1.raise f) := by
    rw [fetchOp_state _ _ _ hf]
    exact ⟨hpc, hwf, fun _ => rfl, rfl⟩
  cases stepped_of_step h with
  | idle => exact ⟨hpc, hwf, hrun, hw⟩
  | halt => exact ⟨hpc, hwf, fun _ => rfl, hw⟩
  | fetchFault s1 f _ hf => exact hraise hf f
  | undefined s1 op _ hf => exact hraise hf _
  | exec s1 s2 op i hd hf hexec =>
    obtain ⟨-, hfault⟩ := (driven_iff s).mp hd
    have hs1 := fetchOp_state _ _ _ hf
    refine inv_retire hexec ?_ ?_ ?_ ?_ <;> rw [hs1]
    · exact hpc
    · exact hwf
    · exact hfault
    · rfl

/-- Settles O14: the reset values of PC, memory, the fault record and the mark. -/
theorem resetHasInv : Obligations.ResetHasInv := fun p => ⟨by rw [resetWith_pc]; decide, wf_nil, fun h => absurd rfl h, rfl⟩

end Sys2Proof.Machine
end

section
/-! PROOFS. The host (R30, R280, R292): its register writes, the image load, the invariant that its operations keep, and the faulted
core that only `reset()` brings back. -/

namespace Sys2Proof.Machine

/-! ## Register writes -/

/-- A register reads back what was written, PC with bit 0 cleared, and every other register reads as before (R38, R280). -/
theorem hostRead_hostSetReg (s : State) (r q : HostReg) (v : Word) : (s.hostSetReg r v).hostRead q =
    if q = r then (if r = .general PC then (v >>> 1) <<< 1 else v) else s.hostRead q := by
  rw [← clearBit0_eq_shifts]
  cases r with
  | apsr => cases q <;> simp [State.hostRead]
  | general r =>
    cases q with
    | apsr => simp [State.hostRead]
    | general q => simp [State.hostRead, eq_comm]

/-- The unsigned reading constructs the value of every integer of its range (R9). -/
theorem unsignedValue_of_range (v : Int) (h0 : 0 ≤ v) (hlt : v < 2 ^ 32) :
    ∃ w : Word, unsignedValue 32 v = some w ∧ (w.toNat : Int) = v := by
  refine ⟨_, (unsignedValue_eq_some 32 v _).mpr ⟨h0, hlt, rfl⟩, ?_⟩
  rw [BitVec.toNat_ofInt]
  omega

/-- The signed reading constructs the value of every integer of its range (R9). -/
theorem signedValue_of_range (v : Int) (h0 : -2 ^ 31 ≤ v) (hlt : v < 2 ^ 31) :
    ∃ w : Word, signedValue 32 v = some w ∧ w.toInt = v := by
  refine ⟨_, (signedValue_eq_some 32 v _).mpr ⟨by omega, by omega, rfl⟩, ?_⟩
  rw [BitVec.toInt_ofInt]
  exact Int.bmod_eq_of_le (by omega) (by omega)

/-- A number that constructs no value fails in Idle (R9, R280). -/
theorem hostWriteReg_fault (s : State) (r : HostReg) (n : SourceNumber) (hs : s.run = .idle) (hn : binaryValue 32 n = none) :
    ∃ e, s.hostWriteReg r n = .fault e := by
  obtain ⟨-, v, hv, -⟩ | ⟨-, -, h⟩ | ⟨hrun, -⟩ := hostWriteReg_cases s r n
  · rw [hn] at hv
    cases hv
  · exact ⟨_, h⟩
  · exact absurd hs hrun

/-- Settles O21: the three outcomes of a register write, and the range of each reading. -/
theorem hostRegisterWrites : Obligations.HostRegisterWrites := by
  refine ⟨fun s r n v hs hn => ?_, fun v => ⟨unsignedValue_of_range v, signedValue_of_range v⟩, fun s r v hs => ⟨?_, ?_, ?_⟩,
    fun s r n hs => ?_⟩
  · obtain ⟨-, w, hw, h⟩ | ⟨-, hnone, -⟩ | ⟨hrun, -⟩ := hostWriteReg_cases s r n
    · obtain rfl : v = w := Option.some.inj (hn.symm.trans hw)
      refine ⟨_, h, ?_, fun q hq => ?_, fun a => hostSetReg_peek s r v a, ⟨?_, ?_, ?_⟩, ?_, ?_⟩
      · rw [hostRead_hostSetReg, if_pos rfl]
      · rw [hostRead_hostSetReg, if_neg hq]
      all_goals simp
    · rw [hn] at hnone
      cases hnone
    · exact absurd hs hrun
  · exact fun hv => hostWriteReg_fault s r _ hs (if_neg hv)
  · exact fun hv => hostWriteReg_fault s r _ hs (if_neg (by omega))
  · exact hostWriteReg_fault s r _ hs rfl
  · obtain ⟨hidle, -⟩ | ⟨hidle, -⟩ | ⟨-, h⟩ := hostWriteReg_cases s r n
    · exact absurd hidle hs
    · exact absurd hidle hs
    · exact ⟨_, h⟩

/-! ## The bytes that the host stores -/

section
variable (bs : List Byte) (a x : Word) (s : State)

/-- Storing bytes changes memory only. -/
theorem pokeBytes_eq : State.pokeBytes bs a s = { s with mem := (State.pokeBytes bs a s).mem } := by
  induction bs generalizing a s with
  | nil => rfl
  | cons b bs ih =>
    rw [State.pokeBytes, ih]
    rfl

/-- Storing bytes changes no byte outside their addresses. -/
theorem peek_pokeBytes_of_ne (h : ∀ k < bs.length, x ≠ byteAddr a k) : (State.pokeBytes bs a s).peek x = s.peek x := by
  induction bs generalizing a s with
  | nil => rfl
  | cons b bs ih =>
    have hne : a ≠ x := by simpa using (h 0 (by simp)).symm
    rw [State.pokeBytes, ih, peek_poke, if_neg hne]
    intro k hk
    rw [byteAddr_succ]
    exact h (k + 1) (by simpa using hk)

/-- Storing bytes leaves byte `k` at the address plus `k` (R292). -/
theorem peek_pokeBytes (k : Nat) (hk : k < bs.length) (hlen : bs.length ≤ 2 ^ 32) :
    (State.pokeBytes bs a s).peek (byteAddr a k) = bs[k]? := by
  induction bs generalizing a s k with
  | nil => simp at hk
  | cons b bs ih =>
    rw [List.length_cons] at hk hlen
    cases k with
    | zero =>
      have hne : ∀ j < bs.length, byteAddr a 0 ≠ byteAddr (a + 1#32) j := by
        intro j hj heq
        have := congrArg BitVec.toNat heq
        rw [byteAddr_succ, byteAddr_toNat, byteAddr_toNat] at this
        omega
      rw [State.pokeBytes, peek_pokeBytes_of_ne _ _ _ _ hne, peek_poke]
      simp
    | succ k =>
      rw [State.pokeBytes, ← byteAddr_succ, ih _ _ _ (by omega) (by omega), List.getElem?_cons_succ]

/-- The image load stores the bytes of RAM and flash, whatever their regions (R52, R292). -/
theorem loadBytes_of_plain (h : ∀ k < bs.length, s.plain (byteAddr a k) = true) :
    State.loadBytes bs a s = .ok (State.pokeBytes bs a s) := by
  induction bs generalizing a s with
  | nil => rfl
  | cons b bs ih =>
    have hbyte : s.loadByte a b = .ok (s.poke a b) := by
      have hplain := h 0 (by simp)
      rw [byteAddr_zero, State.plain] at hplain
      cases hr : s.region a with
      | none => simp [hr] at hplain
      | some r => exact loadByte_of_region s a b r hr (by simpa [hr] using hplain)
    simp only [State.loadBytes, hbyte]
    refine ih (a + 1#32) (s.poke a b) fun k hk => ?_
    rw [poke_plain, byteAddr_succ]
    exact h (k + 1) (by simpa using hk)

end

/-! ## The image load -/

/-- The segments of a longer list are loaded after those of its beginning (assumption log 25). -/
theorem loadSegments_append (content : List Byte) (gs hs : List Segment) (s t : State)
    (h : State.loadSegments content gs s = .ok t) :
    State.loadSegments content (gs ++ hs) s = State.loadSegments content hs t := by
  induction gs generalizing s with
  | nil =>
    obtain rfl := Except.ok.inj h
    rfl
  | cons g gs ih =>
    simp only [List.cons_append, State.loadSegments] at h ⊢
    split at h
    next hfit =>
      rw [if_pos hfit]
      split at h
      next s1 hs1 =>
        exact ih s1 h
      next => cases h
    next => cases h

theorem hostLoad_eq_next (s t : State) (image : Image) :
    s.hostLoad image = .next t ↔ s.run = .idle ∧ State.loadSegments image.content image.segments s = .ok t := by
  unfold State.hostLoad
  by_cases hs : s.run = .idle
  · cases h : State.loadSegments image.content image.segments s <;> simp [hs]
  · simp [hs]

theorem segmentBytes_length (content : List Byte) (g : Segment) (h : g.fileOffset + g.size ≤ content.length) :
    (segmentBytes content g).length = g.size := by
  rw [segmentBytes, List.length_take, List.length_drop]
  omega

theorem segmentBytes_getElem? (content : List Byte) (g : Segment) (k : Nat) (hk : k < g.size) :
    (segmentBytes content g)[k]? = content[g.fileOffset + k]? := by
  rw [segmentBytes, List.getElem?_take_of_lt hk, List.getElem?_drop]

/-- Settles O22: the bytes of one segment are stored one after another, and a list of segments is loaded as it is cut. -/
theorem imageLoad : Obligations.ImageLoad := by
  refine ⟨fun s content g hs hfit hsize hplain => ?_, fun s t u content gs hs h1 h2 => ?_, fun s image hs => ?_⟩
  · have hlen := segmentBytes_length content g hfit
    have hload := loadBytes_of_plain (segmentBytes content g) g.physicalAddress s (by rwa [hlen])
    have hsegments : State.loadSegments content [g] s =
        .ok (State.pokeBytes (segmentBytes content g) g.physicalAddress s) := by
      simp [State.loadSegments, hfit, hload]
    refine ⟨_, (hostLoad_eq_next s _ ⟨content, [g]⟩).mpr ⟨hs, hsegments⟩, fun k hk => ?_, fun x hx => ?_, pokeBytes_eq _ _ _⟩
    · rw [peek_pokeBytes _ _ _ k (by omega) (by omega), segmentBytes_getElem? content g k hk]
    · exact peek_pokeBytes_of_ne _ _ x s (by rwa [hlen])
  · obtain ⟨hidle, hgs⟩ := (hostLoad_eq_next s t ⟨content, gs⟩).mp h1
    obtain ⟨-, hhs⟩ := (hostLoad_eq_next t u ⟨content, hs⟩).mp h2
    exact (hostLoad_eq_next s u ⟨content, gs ++ hs⟩).mpr ⟨hidle, (loadSegments_append content gs hs s t hgs).trans hhs⟩
  · exact ⟨_, if_neg hs⟩

/-! ## The invariant -/

theorem loadByte_eq {s t : State} {a : Word} {b : Byte} (h : s.loadByte a b = .ok t) : t = { s with mem := t.mem } := by
  unfold State.loadByte at h
  split at h
  next =>
    obtain rfl := Except.ok.inj h
    split <;> rfl
  next => cases h

theorem loadBytes_eq {bs : List Byte} {a : Word} {s t : State} (h : State.loadBytes bs a s = .ok t) :
    t = { s with mem := t.mem } := by
  induction bs generalizing a s with
  | nil =>
    obtain rfl := Except.ok.inj h
    rfl
  | cons b bs ih =>
    simp only [State.loadBytes] at h
    split at h
    next s1 hs1 =>
      rw [ih h, loadByte_eq hs1]
    next => cases h

/-- The image load changes memory only (R292). -/
theorem loadSegments_eq {content : List Byte} {gs : List Segment} {s t : State}
    (h : State.loadSegments content gs s = .ok t) : t = { s with mem := t.mem } := by
  induction gs generalizing s with
  | nil =>
    obtain rfl := Except.ok.inj h
    rfl
  | cons g gs ih =>
    simp only [State.loadSegments] at h
    split at h
    next =>
      split at h
      next s1 hs1 =>
        rw [ih h, loadBytes_eq hs1]
      next => cases h
    next => cases h

theorem hostSetReg_pc_even (s : State) (r : HostReg) (v : Word) (h : s.pc.getLsbD 0 = false) :
    (s.hostSetReg r v).pc.getLsbD 0 = false := by
  cases r with
  | apsr => exact h
  | general r =>
    by_cases hr : r = PC
    · subst hr
      exact writePC_even s v
    · rwa [State.hostSetReg, pc_setReg, if_neg hr]

/-- Settles O15: a host operation that is accepted moves the run state, resets, writes a register or loads memory. -/
theorem hostKeepsInv : Obligations.HostKeepsInv := by
  rintro op s t ⟨hpc, hwf, hrun, hw⟩ h
  have hinv : Inv s := ⟨hpc, hwf, hrun, hw⟩
  cases op with
  | execute =>
    by_cases hr : s.run = .running
    · obtain rfl := Host.Outcome.next.inj ((hostExecute_of_running s hr).symm.trans h)
      exact hinv
    · by_cases hf : s.fault = none
      · obtain rfl := Host.Outcome.next.inj ((hostExecute_of_no_fault s hr hf).symm.trans h)
        exact ⟨hpc, hwf, fun hne => absurd hf hne, hw⟩
      · cases (hostExecute_of_fault s hr hf).symm.trans h
  | halt =>
    by_cases hr : s.run = .running
    · obtain rfl := Host.Outcome.next.inj ((hostHalt_of_running s hr).symm.trans h)
      exact ⟨hpc, hwf, fun _ => rfl, hw⟩
    · obtain rfl := Host.Outcome.next.inj ((hostHalt_of_not_running s hr).symm.trans h)
      exact hinv
  | reset =>
    by_cases hr : s.run = .running
    · cases (hostReset_of_running s hr).symm.trans h
    · obtain rfl := Host.Outcome.next.inj ((hostReset_of_not_running s hr).symm.trans h)
      exact resetHasInv s.params
  | writeReg r n =>
    obtain ⟨-, v, -, hv⟩ | ⟨-, -, hv⟩ | ⟨-, hv⟩ := hostWriteReg_cases s r n
    · obtain rfl := Host.Outcome.next.inj (hv.symm.trans h)
      refine ⟨hostSetReg_pc_even s r v hpc, ?_, ?_, ?_⟩
      · rwa [hostSetReg_mem]
      · rwa [hostSetReg_fault, hostSetReg_run]
      · rwa [hostSetReg_wrotePC]
    · cases hv.symm.trans h
    · cases hv.symm.trans h
  | loadImage image =>
    obtain ⟨-, hload⟩ := (hostLoad_eq_next s t image).mp h
    have htwf := wf_loadSegments _ _ s t hwf hload
    rw [loadSegments_eq hload]
    exact ⟨hpc, htwf, hrun, hw⟩

/-! ## The faulted core -/

/-- A host operation other than `reset()` that a faulted core accepts changes nothing (R30, R280). -/
theorem hostOp_of_faulted {s t : State} (hrun : s.run = .halted) (hf : s.fault ≠ none) {op : HostOp} (hop : op ≠ .reset)
    (h : hostOp op s = .next t) : t = s := by
  have hnr : s.run ≠ .running := by simp [hrun]
  have hni : s.run ≠ .idle := by simp [hrun]
  cases op with
  | execute => cases (hostExecute_of_fault s hnr hf).symm.trans h
  | halt => exact (Host.Outcome.next.inj ((hostHalt_of_not_running s hnr).symm.trans h)).symm
  | reset => exact absurd rfl hop
  | writeReg r n => cases (if_neg hni).symm.trans h
  | loadImage image => cases (if_neg hni).symm.trans h

/-- Settles O20: by induction over the ticks and the host operations, each of which leaves the state. -/
theorem faultedCoreStaysHalted : Obligations.FaultedCoreStaysHalted := by
  intro s t hrun hf h
  induction h with
  | start => rfl
  | tick _ hstep ih =>
    subst ih
    obtain ⟨hidle, -⟩ := endOfRun
    exact (Host.Outcome.next.inj ((hidle _ (by simp [hrun])).symm.trans hstep)).symm
  | host op _ hop hhost ih =>
    subst ih
    exact hostOp_of_faulted hrun hf hop hhost

end Sys2Proof.Machine
end

section
/-! PROOFS. The loads and the single stores (R200 to R217): each form by its word, its effective address and the one access
that it makes, and the fault of an access that is misaligned or unmapped (R47, R267). -/

namespace Sys2Proof.Machine

/-! ## Effective addresses -/

/-- A halfword offset is the field times 2 (R72). -/
theorem zextHalf_eq_mul {w : Nat} (imm : BitVec w) : zextHalf imm = imm.setWidth 32 * 2#32 := by
  apply BitVec.eq_of_toNat_eq
  simp [zextHalf, BitVec.toNat_append, Nat.shiftLeft_eq]

/-! ## The extension of a loaded value -/

/-- The sign extension of the low `n` bits of a value that has no others takes `2 ^ n` off where the highest is set. -/
theorem signExtend_extractLsb' (v : Word) (n : Nat) (hn : 0 < n) (hle : n ≤ 32) (hv : v.toNat < 2 ^ n) :
    (v.extractLsb' 0 n).signExtend 32 = if v.getLsbD (n - 1) = true then v - BitVec.ofNat 32 (2 ^ n) else v := by
  have hvalue : (v.extractLsb' 0 n).toNat = v.toNat := by
    rw [BitVec.extractLsb'_toNat, Nat.shiftRight_zero, Nat.mod_eq_of_lt hv]
  have hmsb : (v.extractLsb' 0 n).msb = v.getLsbD (n - 1) := by
    rw [BitVec.msb_eq_getLsbD_last, BitVec.getLsbD_extractLsb', Nat.zero_add, decide_eq_true (by omega), Bool.true_and]
  have hpow : 2 ^ n ≤ 2 ^ 32 := Nat.pow_le_pow_right (by decide) hle
  have hlt := v.isLt
  apply BitVec.eq_of_toNat_eq
  rw [BitVec.toNat_signExtend, BitVec.toNat_setWidth, hvalue, hmsb, Nat.mod_eq_of_lt hlt]
  split
  · rw [BitVec.toNat_sub, BitVec.toNat_ofNat]
    obtain heq | hne := hpow.eq_or_lt
    · rw [heq, Nat.mod_self]
      omega
    · rw [Nat.mod_eq_of_lt hne]
      omega
  · rfl

/-- The extension that a load of this width makes. -/
def extendOf (signed : Bool) : Width → LoadExtend
  | .byte => if signed then .signByte else .zero
  | .half => if signed then .signHalf else .zero
  | .word => .zero

theorem extendLoaded_eq_extended (signed : Bool) (w : Width) (v : Word) (hv : v.toNat < 2 ^ (8 * w.bytes))
    (hw : signed = true → w ≠ .word) : extendLoaded (extendOf signed w) v = extended signed w v := by
  cases signed with
  | false => cases w <;> simp [extendOf, extendLoaded, extended]
  | true =>
    rw [extended]
    simp only [true_and]
    cases w with
    | byte => exact signExtend_extractLsb' v 8 (by decide) (by decide) hv
    | half => exact signExtend_extractLsb' v 16 (by decide) (by decide) hv
    | word => exact absurd rfl (hw rfl)

/-! ## What a load leaves -/

/-- A read of bytes that memory holds takes no draw (R44). -/
theorem readBytes_state_of_held (n : Nat) (a : Word) (s : State)
    (h : ∀ k < n, s.plain (byteAddr a k) = true ∧ s.peek (byteAddr a k) ≠ none) : (State.readBytes n a s).2 = s := by
  have hheld : ∀ k < n, s.plain (byteAddr a k) = true ∧
      s.peek (byteAddr a k) = some ((s.peek (byteAddr a k)).getD 0#8) := fun k hk => by
    obtain ⟨hplain, hpeek⟩ := h k hk
    obtain ⟨b, hb⟩ := Option.ne_none_iff_exists'.mp hpeek
    exact ⟨hplain, by rw [hb]; rfl⟩
  rw [readBytes_held n a s _ hheld]

theorem loads_of_exec {i : Instr} {s : State} {rt : LowReg} {w : Width} {signed : Bool} {ea : Word}
    (hw : signed = true → w ≠ .word) (h : exec i s = .next (s.load rt w (extendOf signed w) ea)) :
    loads i s rt w signed ea := by
  intro ha hm
  obtain ⟨hvalue, hlt⟩ := readBytes_value w ea s
  have hload : s.load rt w (extendOf signed w) ea = (State.readBytes w.bytes ea s).2.setReg (low rt)
      (extendLoaded (extendOf signed w) (BitVec.ofNat 32 (composeLE (State.readBytes w.bytes ea s).1))) := by
    rw [State.load, memRead_of_noFault s .read w ea (accessFault_eq_none s .read w ea ha hm)]
    rfl
  rw [hload, extendLoaded_eq_extended signed w _ (hvalue.trans_lt hlt) hw] at h
  have hstate := readBytes_eq w.bytes ea s
  refine ⟨_, _, h, hvalue.trans_lt hlt, readBytes_readsByte w ea s, by simp, ?_, fun r hr => ?_, fun x => ?_, ?_, ?_,
    fun hheld => ?_⟩
  · rw [setReg_apsr, hstate]
  · rw [regsKept_setReg _ _ _ r hr, hstate]
    rfl
  · rw [setReg_peek, hstate]
    rfl
  · rw [controlKept, setReg_run, setReg_fault, setReg_params, hstate]
    exact ⟨rfl, rfl, rfl⟩
  · rw [setReg_wrotePC, hstate]
  · rw [setReg_draws, readBytes_state_of_held _ _ _ hheld]

/-- Settles O44: every load makes one read at its effective address. -/
theorem loadForms : Obligations.LoadForms := by
  intro s rt rn rm imm5 imm8
  rw [← zextHalf_eq_mul imm5, ← zextWord_eq_mul imm5, ← zextWord_eq_mul imm8, ← align4_eq_shifts]
  have unsigned {w : Width} : false = true → w ≠ .word := nofun
  exact ⟨hasWord_encode (.ldrImm rt rn imm5) rfl, loads_of_exec unsigned rfl,
    hasWord_encode (.ldrbImm rt rn imm5) rfl, loads_of_exec unsigned rfl,
    hasWord_encode (.ldrhImm rt rn imm5) rfl, loads_of_exec unsigned rfl,
    hasWord_encode (.ldrReg rt rn rm) rfl, loads_of_exec unsigned rfl,
    hasWord_encode (.ldrbReg rt rn rm) rfl, loads_of_exec unsigned rfl,
    hasWord_encode (.ldrhReg rt rn rm) rfl, loads_of_exec unsigned rfl,
    hasWord_encode (.ldrsbReg rt rn rm) rfl, loads_of_exec nofun rfl,
    hasWord_encode (.ldrshReg rt rn rm) rfl, loads_of_exec nofun rfl,
    hasWord_encode (.ldrSp rt imm8) rfl, loads_of_exec unsigned rfl,
    hasWord_encode (.ldrLit rt imm8) rfl, loads_of_exec unsigned rfl⟩

/-! ## What a store leaves -/

theorem stores_of_exec {i : Instr} {s : State} {rt : LowReg} {w : Width} {ea : Word}
    (h : exec i s = .next (s.store rt w ea)) : stores i s rt w ea := by
  intro ha hm
  rw [store_of_noFault s rt w ea (accessFault_eq_none s .write w ea ha hm)] at h
  have hstate := writeBytes_eq (splitLE w.bytes (s.reg (low rt))) ea s
  refine ⟨_, h, peek_writeBytes_splitLE w.bytes ea _ s w.bytes_le, peek_writeBytes_splitLE_of_ne w.bytes ea _ s, ?_⟩
  rw [hstate]
  exact ⟨rfl, fun _ _ => rfl, ⟨rfl, rfl, rfl⟩, rfl, rfl⟩

/-- Settles O45: every single store makes one write at its effective address. -/
theorem storeForms : Obligations.StoreForms := by
  intro s rt rn rm imm5 imm8
  rw [← zextHalf_eq_mul imm5, ← zextWord_eq_mul imm5, ← zextWord_eq_mul imm8]
  exact ⟨hasWord_encode (.strImm rt rn imm5) rfl, stores_of_exec rfl,
    hasWord_encode (.strbImm rt rn imm5) rfl, stores_of_exec rfl,
    hasWord_encode (.strhImm rt rn imm5) rfl, stores_of_exec rfl,
    hasWord_encode (.strReg rt rn rm) rfl, stores_of_exec rfl,
    hasWord_encode (.strbReg rt rn rm) rfl, stores_of_exec rfl,
    hasWord_encode (.strhReg rt rn rm) rfl, stores_of_exec rfl,
    hasWord_encode (.strSp rt imm8) rfl, stores_of_exec rfl⟩

/-! ## The fault of an access -/

theorem load_of_fault {s : State} {rt : LowReg} {w : Width} {e : LoadExtend} {ea : Word} {f : FaultRecord}
    (h : s.accessFault .read w ea = some f) : s.load rt w e ea = s.raise f := by
  rw [State.load, memRead_of_fault s .read w ea h]

theorem store_of_fault {s : State} {rt : LowReg} {w : Width} {ea : Word} {f : FaultRecord}
    (h : s.accessFault .write w ea = some f) : s.store rt w ea = s.raise f := by
  rw [State.store, memWrite_of_fault s w ea _ h]

/-- A load or a store takes the fault of its access, and nothing else. -/
theorem exec_of_accessFault {i : Instr} {s : State} {acc : Access} {rt : LowReg} {w : Width} {ea : Word} {f : FaultRecord}
    (hi : (loadOf i s = some (rt, w, ea) ∧ acc = .read) ∨ (storeOf i s = some (rt, w, ea) ∧ acc = .write))
    (h : s.accessFault acc w ea = some f) : exec i s = .next (s.raise f) := by
  obtain ⟨hload, rfl⟩ | ⟨hstore, rfl⟩ := hi
  · obtain ⟨e, he⟩ := exec_of_loadOf hload
    rw [he, load_of_fault h]
  · rw [exec_of_storeOf hstore, store_of_fault h]

/-! ## The first fault of a block -/

theorem wordAddr_zero (base : Word) : wordAddr base 0 = base := byteAddr_zero base

/-- The words of a block are aligned where its lowest address is. -/
theorem wordAddr_mod (base : Word) (j : Nat) : (wordAddr base j).toNat % 4 = base.toNat % 4 := by
  rw [wordAddr, BitVec.toNat_add, BitVec.toNat_ofNat]
  omega

theorem pushAddr_mod (s : State) (n : Nat) : (pushAddr s n).toNat % 4 = (s.reg SP).toNat % 4 := by
  rw [pushAddr, BitVec.toNat_sub, BitVec.toNat_ofNat]
  omega

/-- No access of an aligned and mapped block faults. -/
theorem noFault_of_blockMapped (s : State) (acc : Access) (base : Word) (n : Nat) (ha : base.toNat % 4 = 0)
    (hm : blockMapped s base n) : noFault s acc base n := fun j hj =>
  accessFault_eq_none s acc .word _ ((wordAddr_mod base j).trans ha) fun k hk => by
    rw [Width.bytes] at hk
    rw [byteAddr_wordAddr]
    exact hm _ (by omega)

theorem firstFault_unique {s : State} {acc : Access} {base : Word} {n j k : Nat} {f g : FaultRecord}
    (hj : firstFault s acc base n j f) (hk : firstFault s acc base n k g) : f = g := by
  obtain ⟨-, hfj, hbeforej⟩ := hj
  obtain ⟨-, hfk, hbeforek⟩ := hk
  obtain hlt | rfl | hlt := Nat.lt_trichotomy j k
  · exact absurd (hbeforek j hlt) (by simp [hfj])
  · exact Option.some.inj (hfj.symm.trans hfk)
  · exact absurd (hbeforej k hlt) (by simp [hfk])

/-- A PUSH or a POP takes the first fault of its block. -/
theorem exec_of_firstFault {i : Instr} {s : State} {acc : Access} {base : Word} {n k : Nat} {f : FaultRecord}
    (hi : blockOf i s = some (acc, base, n)) (h : firstFault s acc base n k f) :
    ∃ t, exec i s = .next t ∧ t.fault = some f ∧ t.run = .halted := by
  have hfaults : ∃ j < n, s.accessFault acc .word (wordAddr base j) ≠ none := by
    obtain ⟨hk, hf, -⟩ := id h
    exact ⟨k, hk, by simp [hf]⟩
  cases i
  case push lr list =>
    cases hi
    obtain ⟨j, g, hfirst, hfault, hrun⟩ := push_takes_firstFault s lr list hfaults
    obtain rfl := firstFault_unique h hfirst
    exact ⟨_, rfl, hfault, hrun⟩
  case pop pc list =>
    cases hi
    obtain ⟨j, g, hfirst, hfault, hrun⟩ := pop_takes_firstFault s pc list hfaults
    obtain rfl := firstFault_unique h hfirst
    exact ⟨_, rfl, hfault, hrun⟩
  all_goals cases hi

theorem blockOf_base_mod {i : Instr} {s : State} {acc : Access} {base : Word} {n : Nat}
    (h : blockOf i s = some (acc, base, n)) : base.toNat % 4 = (s.reg SP).toNat % 4 := by
  cases i
  case push lr list =>
    cases h
    exact pushAddr_mod s _
  case pop pc list =>
    cases h
    rfl
  all_goals cases h

/-- Settles O31: a single access takes the fault of its check, and a block that of its first access that faults: the lowest
where SP is misaligned, since all are then, and otherwise the one that is not mapped. -/
theorem loadAndStoreFaults : Obligations.LoadAndStoreFaults := by
  refine ⟨fun i s acc rt w ea hi => ⟨fun h => ?_, fun ha h => ?_⟩,
    fun i s acc base n hi hn => ⟨fun h => ?_, fun k hk ha hm h => ?_⟩⟩
  · exact exec_of_accessFault hi (accessFault_of_misaligned s acc w ea h)
  · exact exec_of_accessFault hi (accessFault_of_unmapped s acc w ea ha h)
  · rw [← blockOf_base_mod hi] at h
    refine exec_of_firstFault (k := 0) hi ⟨by omega, ?_, nofun⟩
    rw [wordAddr_zero]
    exact accessFault_of_misaligned s acc .word base h
  · rw [← blockOf_base_mod hi] at ha
    exact exec_of_firstFault hi ⟨hk, accessFault_of_unmapped s acc .word _ ((wordAddr_mod base k).trans ha) h,
      noFault_of_blockMapped s acc base k ha hm⟩

end Sys2Proof.Machine
end

section
/-! PROOFS. PUSH and POP where no access faults (R231, R232): the words of the block, each register at its place, and that a POP
reads back what a PUSH has left. -/

namespace Sys2Proof.Machine

/-! ## The places of a list -/

theorem listedBelow_lt {list : BitVec 8} {q : LowReg} (h : list.getLsbD q.toNat = true) :
    listedBelow list q.toNat < listedBelow list 8 := by
  have hplace := (listedRegs_getElem? list _ (low q)).mpr ⟨q, rfl, h, rfl⟩
  obtain ⟨hlt, -⟩ := List.getElem?_eq_some_iff.mp hplace
  rwa [listedRegs_length] at hlt

theorem listedBelow_le_listCount (extra : Bool) (list : BitVec 8) : listedBelow list 8 ≤ listCount extra list :=
  Nat.le_add_right _ _

theorem listCount_true (list : BitVec 8) : listCount true list = listedBelow list 8 + 1 := rfl

/-- A listed register is pushed at its place (R231). -/
theorem pushed_getElem?_low (s : State) (lr : Bool) (list : BitVec 8) (q : LowReg) (h : list.getLsbD q.toNat = true) :
    (s.pushed lr list)[listedBelow list q.toNat]? = some (s.reg (low q)) := by
  have hplace := (listedRegs_getElem? list _ (low q)).mpr ⟨q, rfl, h, rfl⟩
  rw [State.pushed, List.getElem?_append_left (by rw [List.length_map, listedRegs_length]; exact listedBelow_lt h),
    List.getElem?_map, hplace]
  rfl

/-- LR is pushed after the listed registers (R231). -/
theorem pushed_getElem?_lr (s : State) (list : BitVec 8) :
    (s.pushed true list)[listedBelow list 8]? = some (s.reg LR) := by
  have hlen : ((listedRegs list).map s.reg).length = listedBelow list 8 := by rw [List.length_map, listedRegs_length]
  rw [State.pushed, ← hlen, List.getElem?_append_right le_rfl, Nat.sub_self]
  rfl

theorem listedRegs_nodup (list : BitVec 8) : (listedRegs list).Nodup := List.Nodup.filter _ (by decide)

/-! ## The stores of a PUSH -/

theorem writeBytes_word (s : State) (a v : Word) : wordWritten s (State.writeBytes (splitLE 4 v) a s) a v :=
  peek_writeBytes_splitLE 4 a v s le_rfl

/-- The stores change no byte outside their words (R231). -/
theorem peek_storeWords_of_ne (l : List (Word × Word)) (s : State) (x : Word)
    (h : ∀ p ∈ l, ∀ k < 4, x ≠ byteAddr p.1 k) : (State.storeWords l s).peek x = s.peek x := by
  induction l generalizing s with
  | nil => rfl
  | cons p l ih =>
    obtain ⟨hhead, htail⟩ := List.forall_mem_cons.mp h
    rw [State.storeWords, ih _ htail, peek_writeBytes_splitLE_of_ne 4 p.1 p.2 s x hhead]

/-- Words that lie apart are all written (R231). -/
theorem storeWords_word (l : List (Word × Word)) (s : State) (hl : (l.map Prod.fst).Pairwise apart) :
    ∀ p ∈ l, wordWritten s (State.storeWords l s) p.1 p.2 := by
  induction l generalizing s with
  | nil => simp
  | cons p l ih =>
    obtain ⟨a, v⟩ := p
    rw [List.map_cons, List.pairwise_cons] at hl
    obtain ⟨hhead, htail⟩ := hl
    have hapart : ∀ q ∈ l, apart a q.1 := fun q hq => hhead q.1 (List.mem_map_of_mem hq)
    rw [State.storeWords, List.forall_mem_cons]
    constructor
    · exact wordWritten_of_kept_after (writeBytes_word s a v) fun k hk =>
        peek_storeWords_of_ne l _ _ fun q hq i hi => hapart q hq k hk i hi
    · intro q hq i hi
      have hbefore := peek_writeBytes_splitLE_of_ne 4 a v s _ fun k hk => (hapart q hq k hk i hi).symm
      rw [ih _ htail q hq i hi, writtenByte, writtenByte, writeBytes_writable, hbefore]

/-- The stores into a block of words: each word is written, and every other byte is kept. -/
theorem storeWords_block (s : State) (base : Word) (ws : List Word) (hlen : 4 * ws.length ≤ 2 ^ 32) :
    (∀ j v, ws[j]? = some v →
      wordWritten s (State.storeWords ((wordAddrs ws.length base).zip ws) s) (wordAddr base j) v) ∧
    ∀ x, (∀ k < 4 * ws.length, x ≠ byteAddr base k) →
      (State.storeWords ((wordAddrs ws.length base).zip ws) s).peek x = s.peek x := by
  have hapart : (((wordAddrs ws.length base).zip ws).map Prod.fst).Pairwise apart := by
    rw [List.map_fst_zip (wordAddrs_length _ _).le]
    exact wordAddrs_pairwise_apart _ base hlen
  refine ⟨fun j v hv => ?_, fun x hx => ?_⟩
  · obtain ⟨hj, -⟩ := List.getElem?_eq_some_iff.mp hv
    refine storeWords_word _ s hapart (wordAddr base j, v) (List.mem_iff_getElem?.mpr ⟨j, ?_⟩)
    rw [List.getElem?_zip_eq_some]
    exact ⟨wordAddrs_getElem? _ base j hj, hv⟩
  · refine peek_storeWords_of_ne _ s x fun p hp i hi => ?_
    obtain ⟨j, hj, hp1⟩ := (mem_wordAddrs _ base p.1).mp (List.of_mem_zip hp).1
    rw [← hp1, byteAddr_wordAddr]
    exact hx _ (by omega)

/-- A PUSH none of whose accesses faults stores its block, then writes SP (R231). -/
theorem push_of_noFault (s : State) (lr : Bool) (list : BitVec 8) (hn : listCount lr list ≠ 0)
    (h : noFault s .write (pushAddr s (listCount lr list)) (listCount lr list)) :
    s.push lr list =
      (State.storeWords ((wordAddrs (listCount lr list) (pushAddr s (listCount lr list))).zip (s.pushed lr list)) s).setReg
        SP (pushAddr s (listCount lr list)) := by
  have hcases := push_cases s lr list
  rw [transferCount_eq_listCount, pushBase_eq_pushAddr] at hcases
  obtain ⟨hempty, -⟩ | ⟨-, -, hpush⟩ | ⟨-, ok, a, rest, f, hcut, -, ha, -⟩ := hcases
  · exact absurd hempty hn
  · exact hpush
  · rw [(noFault_iff _ _ _ _).mp h a (by simp [hcut])] at ha
    cases ha

/-- What a PUSH leaves where no access faults. -/
structure Pushed (lr : Bool) (list : BitVec 8) (s t : State) : Prop where
  sp : t.reg SP = pushAddr s (listCount lr list)
  words : ∀ j v, (s.pushed lr list)[j]? = some v → wordWritten s t (wordAddr (pushAddr s (listCount lr list)) j) v
  otherBytes : ∀ x, (∀ k < 4 * listCount lr list, x ≠ byteAddr (pushAddr s (listCount lr list)) k) → t.peek x = s.peek x
  otherRegs : regsKept [SP] s t
  rest : t = { s with regs := t.regs, mem := t.mem }

theorem pushed_push (s : State) (lr : Bool) (list : BitVec 8) (hn : listCount lr list ≠ 0)
    (h : noFault s .write (pushAddr s (listCount lr list)) (listCount lr list)) : Pushed lr list s (s.push lr list) := by
  have hlen := pushed_length s lr list
  have hle := listCount_le lr list
  obtain ⟨hwords, hbytes⟩ := storeWords_block s (pushAddr s (listCount lr list)) (s.pushed lr list) (by omega)
  rw [hlen] at hwords hbytes
  rw [push_of_noFault s lr list hn h]
  refine ⟨by simp, hwords, hbytes, fun r hr => ?_, ?_⟩
  · rw [regsKept_setReg _ _ _ r hr, storeWords_eq]
    rfl
  · rw [storeWords_eq]
    rfl

/-- LR is stored just below the old SP (R231). -/
theorem wordAddr_pushAddr_last (s : State) (m : Nat) : wordAddr (pushAddr s (m + 1)) m = s.reg SP - 4#32 := by
  rw [wordAddr, pushAddr, Nat.mul_succ, BitVec.ofNat_add]
  generalize BitVec.ofNat 32 (4 * m) = z
  bv_omega

/-- Settles O46: the stores of a block that is aligned and mapped, each register at its place. -/
theorem pushInstruction : Obligations.PushInstruction := by
  intro s m list hn hsp hm
  have hnone := noFault_of_blockMapped s .write _ _ ((pushAddr_mod s _).trans hsp) hm
  obtain ⟨hSP, hwords, hbytes, hregs, hrest⟩ := pushed_push s m list hn hnone
  refine ⟨hasWord_encode (.push m list) rfl, _, rfl, hSP, fun q hq => ?_, ?_, hbytes, ?_, hregs, ?_, ?_, ?_⟩
  · exact hwords _ _ (pushed_getElem?_low s m list q hq)
  · rintro rfl
    have hlr := hwords _ _ (pushed_getElem?_lr s list)
    rwa [listCount_true, wordAddr_pushAddr_last] at hlr
  all_goals rw [hrest]
  exact ⟨rfl, rfl, rfl⟩

/-! ## The loads of a POP -/

/-- A register that is written once holds what is written to it. -/
theorem setRegs_reg_of_mem (l : List (RegNum × Word)) (s : State) (r : RegNum) (v : Word) (hl : (l.map Prod.fst).Nodup)
    (h : (r, v) ∈ l) : (State.setRegs l s).reg r = v := by
  induction l generalizing s with
  | nil => simp at h
  | cons p l ih =>
    rw [List.map_cons, List.nodup_cons] at hl
    obtain ⟨hnew, hl⟩ := hl
    obtain rfl | htail := List.mem_cons.mp h
    · rw [State.setRegs, setRegs_reg l _ r hnew, reg_setReg, if_pos rfl]
    · exact ih _ hl htail

/-- A listed register is loaded from its place in the block (R232). -/
theorem setRegs_listed (list : BitVec 8) (vs : List Word) (s : State) (q : LowReg) (v : Word)
    (hq : list.getLsbD q.toNat = true) (hv : vs[listedBelow list q.toNat]? = some v)
    (hlen : listedBelow list 8 ≤ vs.length) :
    (State.setRegs ((listedRegs list).zip vs) s).reg (low q) = v := by
  refine setRegs_reg_of_mem _ s _ v ?_ (List.mem_iff_getElem?.mpr ⟨listedBelow list q.toNat, ?_⟩)
  · rw [List.map_fst_zip (by rwa [listedRegs_length])]
    exact listedRegs_nodup list
  · rw [List.getElem?_zip_eq_some]
    exact ⟨(listedRegs_getElem? list _ (low q)).mpr ⟨q, rfl, hq, rfl⟩, hv⟩

theorem setRegs_not_listed (list : BitVec 8) (vs : List Word) (s : State) (r : RegNum)
    (hr : ∀ q : LowReg, list.getLsbD q.toNat = true → r ≠ low q) :
    (State.setRegs ((listedRegs list).zip vs) s).reg r = s.reg r := by
  refine setRegs_reg _ s r fun hmem => ?_
  obtain ⟨⟨p, v⟩, hp, rfl⟩ := List.mem_map.mp hmem
  obtain ⟨q, hpq, hq⟩ := (mem_listedRegs list p).mp (List.of_mem_zip hp).1
  exact hr q hq hpq

/-- What a POP that reads the words `vs` leaves where no access faults. -/
structure Popped (pc : Bool) (list : BitVec 8) (vs : List Word) (s t : State) : Prop where
  sp : t.reg SP = s.reg SP + BitVec.ofNat 32 (4 * listCount pc list)
  listed : ∀ (q : LowReg) v, list.getLsbD q.toNat = true → vs[listedBelow list q.toNat]? = some v → t.reg (low q) = v
  target : pc = true → ∀ v, vs[listedBelow list 8]? = some v → t.reg PC = (v >>> 1) <<< 1 ∧ t.wrotePC = true
  pcKept : pc = false → t.reg PC = s.reg PC ∧ t.wrotePC = s.wrotePC
  otherRegs : ∀ r, r ≠ SP → r ≠ PC → (∀ q : LowReg, list.getLsbD q.toNat = true → r ≠ low q) → t.reg r = s.reg r
  rest : t = { s with regs := t.regs, wrotePC := t.wrotePC, draws := t.draws }

/-- A POP none of whose accesses faults loads its block, then writes the registers, SP and PC (R232). -/
theorem pop_of_noFault (s : State) (pc : Bool) (list : BitVec 8) (hn : listCount pc list ≠ 0)
    (h : noFault s .read (s.reg SP) (listCount pc list)) :
    ∃ vs s1 s2, State.loadWords (wordAddrs (listCount pc list) (s.reg SP)) s = (vs, s1) ∧
      s2 = (State.setRegs ((listedRegs list).zip vs) s1).setReg SP (s.reg SP + BitVec.ofNat 32 (4 * listCount pc list)) ∧
      s.pop pc list = if pc then s2.writePC (vs.getLastD 0#32) else s2 := by
  have hcases := pop_cases s pc list
  rw [transferCount_eq_listCount] at hcases
  obtain ⟨hempty, -⟩ | ⟨-, -, vs, s1, hload, hpop⟩ | ⟨-, ok, a, rest, f, hcut, -, ha, -⟩ := hcases
  · exact absurd hempty hn
  · exact ⟨vs, s1, _, hload, rfl, hpop⟩
  · rw [(noFault_iff _ _ _ _).mp h a (by simp [hcut])] at ha
    cases ha

theorem popped_pop (s : State) (pc : Bool) (list : BitVec 8) (hn : listCount pc list ≠ 0)
    (h : noFault s .read (s.reg SP) (listCount pc list)) :
    ∃ vs s1, State.loadWords (wordAddrs (listCount pc list) (s.reg SP)) s = (vs, s1) ∧
      vs.length = listCount pc list ∧ (s.pop pc list).draws = s1.draws ∧ Popped pc list vs s (s.pop pc list) := by
  obtain ⟨vs, s1, s2, hload, hs2, hpop⟩ := pop_of_noFault s pc list hn h
  have hlen : vs.length = listCount pc list := by
    have hlength := loadWords_length (wordAddrs (listCount pc list) (s.reg SP)) s
    rwa [hload, wordAddrs_length] at hlength
  have hs1 := loadWords_state hload
  have hrest : s2 = { s with regs := s2.regs, draws := s1.draws } := by
    rw [hs2, setRegs_eq, hs1]
    rfl
  have hSP : s2.reg SP = s.reg SP + BitVec.ofNat 32 (4 * listCount pc list) := by
    rw [hs2, reg_setReg, if_pos rfl]
  have hlisted : ∀ (q : LowReg) v, list.getLsbD q.toNat = true → vs[listedBelow list q.toNat]? = some v →
      s2.reg (low q) = v := fun q v hq hv => by
    rw [hs2, reg_setReg, if_neg (SP_ne_low q),
      setRegs_listed list vs s1 q v hq hv (hlen ▸ listedBelow_le_listCount pc list)]
  have hother : ∀ r, r ≠ SP → (∀ q : LowReg, list.getLsbD q.toNat = true → r ≠ low q) → s2.reg r = s.reg r :=
    fun r hr hlow => by
      rw [hs2, reg_setReg, if_neg hr.symm, setRegs_not_listed list vs s1 r hlow, hs1]
      rfl
  have hdraws : s2.draws = s1.draws := by rw [hrest]
  have hwrote : s2.wrotePC = s.wrotePC := by rw [hrest]
  refine ⟨vs, s1, hload, hlen, ?_⟩
  rw [hpop]
  cases pc with
  | false =>
    rw [if_neg (by decide)]
    refine ⟨hdraws, hSP, hlisted, nofun, fun _ => ⟨hother PC PC_ne_SP fun q _ => PC_ne_low q, hwrote⟩,
      fun r hr _ => hother r hr, ?_⟩
    rw [hrest]
  | true =>
    refine ⟨hdraws, by simpa using hSP, fun q v hq hv => ?_, fun _ v hv => ⟨?_, rfl⟩, nofun,
      fun r hr hpc hlow => ?_, ?_⟩
    · simpa using hlisted q v hq hv
    · have hlast : vs.getLastD 0#32 = v := by
        rw [listCount_true] at hlen
        rw [List.getLastD_eq_getLast?, List.getLast?_eq_getElem?, hlen, Nat.add_sub_cancel, hv]
        rfl
      rw [if_pos rfl, reg_writePC, if_pos rfl, hlast, clearBit0_eq_shifts]
    · rw [if_pos rfl, reg_writePC, if_neg hpc.symm]
      exact hother r hr hlow
    · rw [if_pos rfl, hrest]
      rfl

/-- Settles O47: the loads of a block that is aligned and mapped, each register from its place. -/
theorem popInstruction : Obligations.PopInstruction := by
  intro s p list hn hsp hm
  obtain ⟨vs, s1, hload, hlen, hdraws, hSP, hlisted, htarget, hpcKept, hother, hrest⟩ :=
    popped_pop s p list hn (noFault_of_blockMapped s .read _ _ hsp hm)
  have hreads : ∀ j < listCount p list, ∃ v, vs[j]? = some v ∧ readsWord s (s.pop p list) (wordAddr (s.reg SP) j) v :=
    fun j hj => by
      have hv := List.getElem?_eq_getElem (show j < vs.length by omega)
      refine ⟨_, hv, loadWords_reads (wordAddrs (listCount p list) (s.reg SP)) s _ ?_ j _ _ (wordAddrs_getElem? _ _ j hj) ?_⟩
      · rw [hload, hdraws]
      · rwa [hload]
  refine ⟨hasWord_encode (.pop p list) rfl, _, rfl, hSP, fun q hq => ?_, ?_, hpcKept, hother, ?_, fun x => ?_, ?_⟩
  · obtain ⟨v, hv, hread⟩ := hreads _ ((listedBelow_lt hq).trans_le (listedBelow_le_listCount p list))
    rwa [hlisted q v hq hv]
  · rintro rfl
    obtain ⟨v, hv, hread⟩ := hreads (listedBelow list 8) (Nat.lt_succ_self _)
    exact ⟨v, hread, htarget rfl v hv⟩
  · rw [hrest]
  · rw [hrest]
    rfl
  · rw [hrest]
    exact ⟨rfl, rfl, rfl⟩

/-! ## A POP of words that memory holds -/

/-- A read of a word that memory holds answers it, and takes no draw (R42, R44). -/
theorem readBytes_of_holdsWord (s : State) (a v : Word) (h : holdsWord s a v) :
    BitVec.ofNat 32 (composeLE (State.readBytes 4 a s).1) = v ∧ (State.readBytes 4 a s).2 = s := by
  have hsum := sum_byteOf v 0 4
  simp only [Nat.zero_add] at hsum
  rw [readBytes_held 4 a s (byteOf v) h, composeLE_map_range, hsum, Nat.mul_zero, Nat.pow_zero, Nat.div_one,
    Nat.mod_eq_of_lt v.isLt, BitVec.ofNat_toNat, BitVec.setWidth_eq]
  exact ⟨rfl, rfl⟩

/-- The loads of words that memory holds answer them, and take no draw. -/
theorem loadWords_of_holdsWord (as vs : List Word) (s : State) (h : List.Forall₂ (holdsWord s) as vs) :
    State.loadWords as s = (vs, s) := by
  induction h with
  | nil => rfl
  | cons hword _ ih =>
    obtain ⟨hvalue, hstate⟩ := readBytes_of_holdsWord s _ _ hword
    simp [State.loadWords, hvalue, hstate, ih]

theorem forall₂_wordAddrs {R : Word → Word → Prop} (base : Word) (vs : List Word)
    (h : ∀ j v, vs[j]? = some v → R (wordAddr base j) v) : List.Forall₂ R (wordAddrs vs.length base) vs := by
  rw [List.forall₂_iff_get]
  refine ⟨wordAddrs_length _ _, fun j hj hv => ?_⟩
  have haddr := wordAddrs_getElem? vs.length base j hv
  rw [List.getElem?_eq_getElem hj] at haddr
  rw [List.get_eq_getElem, List.get_eq_getElem, Option.some.inj haddr]
  exact h j _ (List.getElem?_eq_getElem hv)

/-- A POP of words that memory holds at an aligned SP pops them, and takes no draw. -/
theorem popped_of_holdsWords (s : State) (pc : Bool) (list : BitVec 8) (vs : List Word)
    (hlen : vs.length = listCount pc list) (hn : listCount pc list ≠ 0) (hsp : (s.reg SP).toNat % 4 = 0)
    (h : ∀ j v, vs[j]? = some v → holdsWord s (wordAddr (s.reg SP) j) v) :
    (s.pop pc list).draws = s.draws ∧ Popped pc list vs s (s.pop pc list) := by
  have hnone : noFault s .read (s.reg SP) (listCount pc list) := fun j hj =>
    accessFault_eq_none s .read .word _ ((wordAddr_mod _ j).trans hsp) fun k hk =>
      mapped_of_plain s _ (h j _ (List.getElem?_eq_getElem (show j < vs.length by omega)) k hk).1
  obtain ⟨ws, s1, hload, -, hdraws, hpopped⟩ := popped_pop s pc list hn hnone
  rw [← hlen, loadWords_of_holdsWord _ vs s (forall₂_wordAddrs _ vs h)] at hload
  obtain ⟨rfl, rfl⟩ := Prod.mk.inj hload
  exact ⟨hdraws, hpopped⟩

/-- A word written to writable memory is held, in every later state of that memory. -/
theorem holdsWord_of_wordWritten {s t t' : State} {a v : Word} (hw : ∀ k < 4, s.writable (byteAddr a k) = true)
    (h : wordWritten s t a v) (hmem : memKept t t') (hparams : t'.params = s.params) : holdsWord t' a v := by
  intro k hk
  have hplain : t'.plain (byteAddr a k) = s.plain (byteAddr a k) := by
    unfold State.plain State.region
    rw [hparams]
  rw [hplain, hmem, h k hk, writtenByte, if_pos (hw k hk)]
  exact ⟨plain_of_writable s _ (hw k hk), rfl⟩

/-- Settles O48: memory still holds the words of the PUSH, so that the POP reads them back, each at its place. -/
theorem popUndoesPush : Obligations.PopUndoesPush := by
  intro s m list hn hsp hw
  have hblock : blockMapped s (pushAddr s (listCount m list)) (listCount m list) := fun k hk =>
    mapped_of_plain s _ (plain_of_writable s _ (hw k hk))
  have hbase := (pushAddr_mod s (listCount m list)).trans hsp
  obtain ⟨hSP, hwords, -, -, hrest⟩ := pushed_push s m list hn (noFault_of_blockMapped s .write _ _ hbase hblock)
  refine ⟨_, rfl, fun t' hmem hparams hSP' => ?_⟩
  rw [hSP] at hSP'
  have hparams' : t'.params = s.params := by rw [hparams, hrest]
  have hlen := pushed_length s m list
  have hheld : ∀ j v, (s.pushed m list)[j]? = some v → holdsWord t' (wordAddr (t'.reg SP) j) v := fun j v hv => by
    obtain ⟨hj, -⟩ := List.getElem?_eq_some_iff.mp hv
    rw [hSP']
    refine holdsWord_of_wordWritten (fun k hk => ?_) (hwords j v hv) hmem hparams'
    rw [byteAddr_wordAddr]
    exact hw _ (by omega)
  obtain ⟨hdraws, hspPopped, hlisted, htarget, -, hother, hrestPopped⟩ :=
    popped_of_holdsWords t' m list (s.pushed m list) hlen hn (by rwa [hSP']) hheld
  refine ⟨_, rfl, ?_, ?_, fun q => ?_, ?_, fun x => ?_, hdraws⟩
  · rw [hspPopped, hSP', pushAddr, BitVec.sub_add_cancel]
  · rw [hrestPopped]
  · split
    next hq => exact hlisted q _ hq (pushed_getElem?_low s m list q hq)
    next hq =>
      refine hother (low q) (low_ne_SP q) (low_ne_PC q) fun r hr heq => hq ?_
      rwa [(low_inj q r).mp heq]
  · rintro rfl
    exact (htarget rfl _ (pushed_getElem?_lr s list)).1
  · rw [hrestPopped]
    rfl

end Sys2Proof.Machine
end

section
/-! PROOFS. Branches on the flags (R240, R242), and the return from a call (R246 to R248). -/

namespace Sys2Proof.Machine

/-! ## The conditional branches -/

/-- A conditional branch, by a condition that says when its test passes (R242). -/
theorem branches_of_exec {i : Instr} {s : State} {c : Cond} {imm8 : BitVec 8} {passes : Prop}
    (h : exec i s = .next (s.branchIf c imm8)) (hc : s.conditionPassed c = true ↔ passes) :
    branches i s passes (imm8.signExtend 32 * 2#32) := by
  rw [← sextHalf_eq_mul]
  refine ⟨fun hp => jumps_of_exec ?_, fun hp => ?_⟩
  · rw [h, State.branchIf, if_pos (hc.mpr hp)]
    rfl
  · rw [h, State.branchIf, if_neg (hc.not.mpr hp)]

/-- Settles O49: each form by its word and by its test. -/
theorem conditionalBranches : Obligations.ConditionalBranches := by
  intro s imm8
  refine ⟨⟨hasWord_encode (.beq imm8) rfl, branches_of_exec rfl ?_⟩, ⟨hasWord_encode (.bne imm8) rfl, branches_of_exec rfl ?_⟩,
    ⟨hasWord_encode (.bcs imm8) rfl, branches_of_exec rfl ?_⟩, ⟨hasWord_encode (.bcc imm8) rfl, branches_of_exec rfl ?_⟩,
    ⟨hasWord_encode (.bmi imm8) rfl, branches_of_exec rfl ?_⟩, ⟨hasWord_encode (.bpl imm8) rfl, branches_of_exec rfl ?_⟩,
    ⟨hasWord_encode (.bvs imm8) rfl, branches_of_exec rfl ?_⟩, ⟨hasWord_encode (.bvc imm8) rfl, branches_of_exec rfl ?_⟩,
    ⟨hasWord_encode (.bhi imm8) rfl, branches_of_exec rfl ?_⟩, ⟨hasWord_encode (.bls imm8) rfl, branches_of_exec rfl ?_⟩,
    ⟨hasWord_encode (.bge imm8) rfl, branches_of_exec rfl ?_⟩, ⟨hasWord_encode (.blt imm8) rfl, branches_of_exec rfl ?_⟩,
    ⟨hasWord_encode (.bgt imm8) rfl, branches_of_exec rfl ?_⟩, ⟨hasWord_encode (.ble imm8) rfl, branches_of_exec rfl ?_⟩,
    ⟨hasWord_encode (.bal imm8) rfl, branches_of_exec rfl ?_⟩⟩ <;> simp [State.conditionPassed]

/-! ## The tests after a compare -/

/-- A compare leaves the flags of the difference (R133, R134, R141). -/
theorem exec_compare {i : Instr} {s : State} {x y : Word}
    (h : (∃ rn rm, i = .cmpReg rn rm ∧ x = s.lowReg rn ∧ y = s.lowReg rm) ∨
      (∃ rn imm8, i = .cmpImm8 rn imm8 ∧ x = s.lowReg rn ∧ y = imm8.setWidth 32) ∨
      (∃ rn rm, i = .cmpHi rn rm ∧ x = s.operand rn ∧ y = s.operand rm)) :
    exec i s = .next (s.setNZCV (x - y).msb (x - y == 0#32) (noBorrow x y) (differenceOverflow x y)) := by
  have hflags : s.setFlags (aluSub x y) =
      s.setNZCV (x - y).msb (x - y == 0#32) (noBorrow x y) (differenceOverflow x y) := by
    rw [aluSub_eq]
    rfl
  rw [← hflags]
  obtain ⟨rn, rm, rfl, rfl, rfl⟩ | ⟨rn, imm8, rfl, rfl, rfl⟩ | ⟨rn, rm, rfl, rfl, rfl⟩ := h <;> rfl

theorem sub_eq_zero_iff (x y : Word) : (x - y == 0#32) = decide (x = y) := by
  rw [Bool.eq_iff_iff, beq_iff_eq, decide_eq_true_iff, BitVec.sub_eq_iff_eq_add, BitVec.zero_add]

/-- The sign of a difference is that of the exact difference, turned round where that overflows. -/
theorem sub_msb_ne_overflow (x y : Word) : ((x - y).msb != differenceOverflow x y) = decide (x.toInt < y.toInt) := by
  have hsub : (x - y).toInt = (x.toInt - y.toInt).bmod (2 ^ 32) := BitVec.toInt_sub
  have hx := x.toInt_lt
  have hx' := x.le_toInt
  have hy := y.toInt_lt
  have hy' := y.le_toInt
  rw [BitVec.msb_eq_toInt, hsub, differenceOverflow, Int.bmod, Bool.eq_iff_iff, bne_iff_ne, ne_eq, decide_eq_decide,
    decide_eq_true_iff]
  omega

/-- Settles O50: Z says that the operands are equal, C that there is no borrow, and N and V differ where the exact difference
is negative. -/
theorem conditionsAfterCompare : Obligations.ConditionsAfterCompare := by
  intro i s t x y hi h
  obtain rfl := Host.Outcome.next.inj (h.symm.trans (exec_compare hi))
  have hlt := sub_msb_ne_overflow x y
  have hge : ((x - y).msb == differenceOverflow x y) = decide (y.toInt ≤ x.toInt) := by
    calc ((x - y).msb == differenceOverflow x y)
      _ = !((x - y).msb != differenceOverflow x y) := (Bool.not_not _).symm
      _ = decide (y.toInt ≤ x.toInt) := by rw [hlt, ← decide_not, decide_eq_decide, Int.not_lt]
  have heq := sub_eq_zero_iff x y
  have hnat : x = y ↔ x.toNat = y.toNat := BitVec.toNat_inj.symm
  have hint : x = y ↔ x.toInt = y.toInt := BitVec.toInt_inj.symm
  simp only [State.conditionPassed, setNZCV_flagN, setNZCV_flagZ, setNZCV_flagC, setNZCV_flagV, hlt, hge, heq, noBorrow]
  refine ⟨trivial, (decide_not).symm, trivial, ?_, ?_, ?_, trivial, trivial, ?_, ?_⟩
  · rw [← decide_not, decide_eq_decide, Nat.not_le]
  · rw [← decide_not, ← Bool.decide_and, decide_eq_decide, hnat]
    omega
  · rw [← decide_not, ← Bool.decide_or, decide_eq_decide, hnat]
    omega
  · rw [← decide_not, ← Bool.decide_and, decide_eq_decide, hint]
    omega
  · rw [← Bool.decide_or, decide_eq_decide, hint]
    omega

/-! ## The return from a call -/

/-- A PC write of a link value goes to the return address, whatever the link bit (R106, R246, R248). -/
theorem clearBit0_linkValue (s : State) (ret : Word) (h : ret.getLsbD 0 = false) : clearBit0 (s.linkValue ret) = ret := by
  apply BitVec.eq_of_getLsbD_eq
  intro i hi
  cases i with
  | zero => rw [clearBit0_even, h]
  | succ i =>
    rw [clearBit0_eq_shifts, State.linkValue, zext, BitVec.getLsbD_shiftLeft, BitVec.getLsbD_ushiftRight, BitVec.getLsbD_or,
      BitVec.getLsbD_setWidth]
    simp [hi, Nat.add_comm 1 i]

/-- A call leaves the link value of the address after it in LR. -/
theorem exec_call {i : Instr} {s t : State} {len : Nat}
    (hi : (∃ sign imm10 imm11, i = .bl sign imm10 imm11) ∧ len = 4 ∨ (∃ rm, i = .blx rm) ∧ len = 2)
    (h : exec i s = .next t) : t.reg LR = s.linkValue (s.pc + BitVec.ofNat 32 len) := by
  obtain ⟨⟨sign, imm10, imm11, rfl⟩, rfl⟩ | ⟨⟨rm, rfl⟩, rfl⟩ := hi
  all_goals
    obtain rfl := Host.Outcome.next.inj h
    simp

/-- Settles O52: LR holds the return address with the link bit in bit 0, which every PC write clears. -/
theorem callAndReturn : Obligations.CallAndReturn := by
  intro i s t u len hpc hi h
  have hret : (s.pc + BitVec.ofNat 32 len).getLsbD 0 = false := by
    obtain ⟨-, rfl⟩ | ⟨-, rfl⟩ := hi <;> exact even_add hpc _ rfl
  have hLR := exec_call hi h
  have hclear := clearBit0_linkValue s _ hret
  rw [hLR]
  refine ⟨fun hu => ?_, fun hsp hheld => ?_⟩
  · have htarget : (u.writePC (u.operand LR)).pc = s.pc + BitVec.ofNat 32 len := by
      rw [pc_writePC, operand_of_ne u LR LR_ne_PC, hu, hclear]
    exact ⟨⟨_, rfl, htarget⟩, ⟨_, rfl, htarget⟩⟩
  · have hwords : ∀ j v, [s.linkValue (s.pc + BitVec.ofNat 32 len)][j]? = some v →
        holdsWord u (wordAddr (u.reg SP) j) v := by
      intro j v hv
      obtain ⟨rfl, rfl⟩ : j = 0 ∧ _ = v := by simpa [List.getElem?_singleton] using hv
      rwa [wordAddr_zero]
    obtain ⟨-, hpopped⟩ := popped_of_holdsWords u true 0#8 _ rfl (by decide) hsp hwords
    refine ⟨_, rfl, ?_⟩
    obtain ⟨hPC, -⟩ := hpopped.target rfl _ rfl
    rw [← clearBit0_eq_shifts, hclear] at hPC
    exact hPC

end Sys2Proof.Machine
end

section
/-! PROOFS. Labels (R84, R85, R88): the field that the encoder computes for one, the address that the instruction reaches with
that field, and which entries of the encoder read the label table. -/

namespace Sys2Proof.Machine

/-! ## A single entry -/

/-- Operands of one entry: what its checks answer decides, an error with its context (R79, R89). -/
theorem assemble_of_single {ctx : EncodeContext} {m : Mnemonic} {ops : List Operand} {x : Except EncodeErrorKind Instr}
    (h : entries ctx m ops = [x]) : assemble ctx m ops = x.mapError fun k => ⟨k, m, ops⟩ := by
  have hcount : ops.length ∈ operandCounts m := entries_length ctx m ops (by simp [h])
  rw [assemble, h]
  cases x with
  | ok i => rfl
  | error k => simp [firstOk, errorKind, hcount, Except.mapError]

theorem assemble_single_eq_ok {ctx : EncodeContext} {m : Mnemonic} {ops : List Operand} {x : Except EncodeErrorKind Instr}
    (h : entries ctx m ops = [x]) (i : Instr) : assemble ctx m ops = .ok i ↔ x = .ok i := by
  rw [assemble_of_single h]
  cases x <;> simp [Except.mapError]

theorem map_eq_ok {α β ε : Type} (x : Except ε α) (f : α → β) (b : β) : x.map f = .ok b ↔ ∃ a, x = .ok a ∧ f a = b := by
  cases x <;> simp [Except.map]

/-- A single entry of one other field. -/
theorem assemble_map_eq_ok {ctx : EncodeContext} {m : Mnemonic} {ops : List Operand} {α : Type}
    {x : Except EncodeErrorKind α} {f : α → Instr} (h : entries ctx m ops = [x.map f]) (i : Instr) :
    assemble ctx m ops = .ok i ↔ ∃ a, x = .ok a ∧ f a = i := by
  rw [assemble_single_eq_ok h, map_eq_ok]

/-- A single entry of a low register and another field. -/
theorem assemble_enc1F_eq_ok {ctx : EncodeContext} {m : Mnemonic} {ops : List Operand} {α : Type} {r : LowReg}
    {x : Except EncodeErrorKind α} {f : LowReg → α → Instr} (h : entries ctx m ops = [enc1F (low r) x f]) (i : Instr) :
    assemble ctx m ops = .ok i ↔ ∃ a, x = .ok a ∧ f r a = i := by
  rw [enc1F_low] at h
  exact assemble_map_eq_ok h i

/-! ## The field of a branch -/

theorem condBranch_inj {c : Cond} {f g : BitVec 8} (h : condBranch c f = condBranch c g) : f = g := by
  cases c <;> exact (Instr.noConfusion h fun hfg => hfg)

/-- The 22-bit offset of BL in its three fields (R244). -/
def blOf (f : BitVec 22) : Instr := .bl (f.extractLsb' 21 1) (f.extractLsb' 11 10) (f.extractLsb' 0 11)

theorem blOffset_append (f : BitVec 22) :
    f.extractLsb' 21 1 ++ f.extractLsb' 11 10 ++ f.extractLsb' 0 11 = f := by
  rw [BitVec.extractLsb'_append_extractLsb'_eq_extractLsb' (by decide),
    BitVec.extractLsb'_append_extractLsb'_eq_extractLsb' (by decide)]
  exact BitVec.extractLsb'_eq_self

theorem branchField_none {ctx : EncodeContext} (h : ctx.labels = none) (w : Nat) (name : String) :
    branchField w ctx name = .ok 0 := by
  simp [branchField, h]

/-- The displacement of a resolved label: even, in the range of the field, and stored as its half (R84). -/
theorem branchField_eq_ok {ctx : EncodeContext} {table : List (String × Word)} {name : String} {target : Word}
    (htable : ctx.labels = some table) (hname : lookupLabel table name = .ok target) (w : Nat) (f : BitVec w) :
    branchField w ctx name = .ok f ↔
      (target - (ctx.site + 4#32)).toInt % 2 = 0 ∧ -2 ^ w ≤ (target - (ctx.site + 4#32)).toInt ∧
        (target - (ctx.site + 4#32)).toInt < 2 ^ w ∧ f = BitVec.ofInt w ((target - (ctx.site + 4#32)).toInt / 2) := by
  simp only [branchField, htable, hname]
  generalize (target - (ctx.site + 4#32)).toInt = offset
  by_cases heven : offset % 2 = 0
  · have hhalf : 2 * (offset / 2) = offset := by omega
    rw [if_neg (by simp [heven])]
    have hvalue := signedValue_eq_some w (offset / 2) f
    rw [hhalf] at hvalue
    simp only [heven, true_and, ← hvalue]
    cases signedValue w (offset / 2) <;> simp
  · simp [heven]

/-- The field read back is half the displacement. -/
theorem toInt_of_branchField {ctx : EncodeContext} {table : List (String × Word)} {name : String} {target : Word}
    (htable : ctx.labels = some table) (hname : lookupLabel table name = .ok target) {w : Nat} {f : BitVec w}
    (hw : 0 < w) (h : branchField w ctx name = .ok f) : 2 * f.toInt = (target - (ctx.site + 4#32)).toInt := by
  obtain ⟨heven, hleast, hmost, rfl⟩ := (branchField_eq_ok htable hname w f).mp h
  obtain ⟨n, rfl⟩ : ∃ n, w = n + 1 := ⟨w - 1, by omega⟩
  generalize (target - (ctx.site + 4#32)).toInt = offset at heven hleast hmost ⊢
  rw [Int.pow_succ] at hleast hmost
  rw [BitVec.toInt_ofInt_eq_self hw (by rw [Nat.add_sub_cancel]; omega) (by rw [Nat.add_sub_cancel]; omega)]
  omega

section
variable (ctx : EncodeContext) (name : String)

theorem assemble_bcond (c : Cond) (i : Instr) :
    assemble ctx (.bcond c) [.label name] = .ok i ↔ ∃ f, branchField 8 ctx name = .ok f ∧ condBranch c f = i :=
  assemble_map_eq_ok rfl i

theorem assemble_b (i : Instr) :
    assemble ctx .b [.label name] = .ok i ↔ ∃ f, branchField 11 ctx name = .ok f ∧ .b f = i :=
  assemble_map_eq_ok rfl i

theorem assemble_bl (i : Instr) :
    assemble ctx .bl [.label name] = .ok i ↔ ∃ f, branchField 22 ctx name = .ok f ∧ blOf f = i :=
  assemble_map_eq_ok rfl i

end

/-- Some instruction assembles exactly where the field does. -/
theorem exists_assemble_iff {ctx : EncodeContext} {m : Mnemonic} {ops : List Operand} {α : Type}
    {x : Except EncodeErrorKind α} {f : α → Instr}
    (h : ∀ i, assemble ctx m ops = .ok i ↔ ∃ a, x = .ok a ∧ f a = i) :
    (∃ i, assemble ctx m ops = .ok i) ↔ ∃ a, x = .ok a := by
  simp only [h]
  exact ⟨fun ⟨_, a, ha, _⟩ => ⟨a, ha⟩, fun ⟨a, ha⟩ => ⟨_, a, ha, rfl⟩⟩

/-- Settles O56: the field is half the displacement, and is in range where the displacement is. -/
theorem branchDisplacements : Obligations.BranchDisplacements := by
  refine ⟨fun ctx name c h => ⟨?_, ?_, ?_⟩, fun ctx table name c target htable hname => ?_⟩
  · exact (assemble_bcond ctx name c _).mpr ⟨0#8, branchField_none h 8 name, rfl⟩
  · exact (assemble_b ctx name _).mpr ⟨0#11, branchField_none h 11 name, rfl⟩
  · exact (assemble_bl ctx name _).mpr ⟨0#22, branchField_none h 22 name, rfl⟩
  · have hok (w : Nat) (f : BitVec w) := branchField_eq_ok htable hname w f
    have hhalf {w : Nat} {f : BitVec w} := toInt_of_branchField htable hname (f := f)
    intro offset
    refine ⟨?_, ?_, ?_, fun f hf => ?_, fun f hf => ?_, fun f g h hf => ?_⟩
    · rw [exists_assemble_iff (assemble_bcond ctx name c)]
      simp only [hok, exists_and_left, exists_eq, and_true]
      omega
    · rw [exists_assemble_iff (assemble_b ctx name)]
      simp only [hok, exists_and_left, exists_eq, and_true]
      omega
    · rw [exists_assemble_iff (assemble_bl ctx name)]
      simp only [hok, exists_and_left, exists_eq, and_true]
      omega
    · obtain ⟨g, hg, hi⟩ := (assemble_bcond ctx name c _).mp hf
      rw [← condBranch_inj hi]
      exact hhalf (by decide) hg
    · obtain ⟨g, hg, hi⟩ := (assemble_b ctx name _).mp hf
      cases hi
      exact hhalf (by decide) hg
    · obtain ⟨k, hk, hi⟩ := (assemble_bl ctx name _).mp hf
      cases hi
      rw [blOffset_append]
      exact hhalf (by decide) hk

/-! ## The address that a field reaches -/

theorem clearBit0_of_even (v : Word) (h : v.getLsbD 0 = false) : clearBit0 v = v := by
  apply BitVec.eq_of_getLsbD_eq
  intro i hi
  cases i with
  | zero => rw [clearBit0_even, h]
  | succ i =>
    rw [clearBit0_eq_shifts, BitVec.getLsbD_shiftLeft, BitVec.getLsbD_ushiftRight]
    simp [hi, Nat.add_comm 1 i]

/-- At an even site the branch target of a label's field is the label's address (R241, R242). -/
theorem branchTarget_of_branchField {ctx : EncodeContext} {table : List (String × Word)} {name : String} {target : Word}
    {s : State} (htable : ctx.labels = some table) (hname : lookupLabel table name = .ok target) (hpc : s.pc = ctx.site)
    (heven : s.pc.getLsbD 0 = false) {w : Nat} {f : BitVec w} (hw : 0 < w) (h : branchField w ctx name = .ok f) :
    clearBit0 (s.branchTarget (sextHalf f)) = target := by
  have htwice := toInt_of_branchField htable hname hw h
  have hoffset : sextHalf f = target - (ctx.site + 4#32) := by
    rw [sextHalf_eq_mul, BitVec.signExtend, show 2#32 = BitVec.ofInt 32 2 by rfl, ← BitVec.ofInt_mul, Int.mul_comm, htwice,
      BitVec.ofInt_toInt]
  have htarget : s.branchTarget (sextHalf f) = target := by
    rw [State.branchTarget, hoffset, hpc, BitVec.add_comm, BitVec.sub_add_cancel]
  rw [htarget]
  refine clearBit0_of_even target ?_
  have hsum : target = ctx.site + 4#32 + (target - (ctx.site + 4#32)) := by rw [BitVec.add_comm, BitVec.sub_add_cancel]
  rw [hpc, even_iff] at heven
  have hnat : (target - (ctx.site + 4#32)).toNat % 2 = 0 := by
    have hcond := BitVec.toInt_eq_toNat_cond (target - (ctx.site + 4#32))
    rw [← htwice] at hcond
    split at hcond <;> omega
  rw [even_iff, hsum, BitVec.toNat_add, BitVec.toNat_add, BitVec.toNat_ofNat]
  omega

theorem exec_condBranch (c : Cond) (f : BitVec 8) (s : State) : exec (condBranch c f) s = .next (s.branchIf c f) := by
  cases c <;> rfl

theorem branchIf_of_passed {s : State} {c : Cond} (h : s.conditionPassed c = true) (f : BitVec 8) :
    s.branchIf c f = s.writePC (s.branchTarget (sextHalf f)) := if_pos h

theorem exec_blOf (f : BitVec 22) (s : State) :
    exec (blOf f) s = .next ((s.setReg LR (s.linkValue (s.pc + 4#32))).writePC (s.branchTarget (sextHalf f))) := by
  change Host.Outcome.next ((s.setReg LR (s.linkValue (s.pc + 4#32))).writePC (s.branchTarget (linkOffset _ _ _))) = _
  rw [linkOffset, blOffset_append]

/-- The field of a literal load or of ADR reaches the label's address (R104, R142, R217). -/
theorem addrPc_of_literalField {ctx : EncodeContext} {table : List (String × Word)} {name : String} {target : Word}
    {s : State} (htable : ctx.labels = some table) (hname : lookupLabel table name = .ok target) (hpc : s.pc = ctx.site)
    {f : BitVec 8} (h : literalField ctx name = .ok f) : s.addrPc f = target := by
  simp only [literalField, htable, hname] at h
  rw [scaledField_eq 8 4 _ (by decide)] at h
  have hahead : zextWord f = target - align4 (ctx.site + 4#32) := by
    revert h
    generalize target - align4 (ctx.site + 4#32) = ahead
    intro h
    split_ifs at h with haligned hrange
    obtain rfl := Except.ok.inj h
    rw [zextWord_eq_mul]
    apply BitVec.eq_of_toNat_eq
    rw [BitVec.toNat_mul, BitVec.toNat_setWidth, BitVec.toNat_ofInt, BitVec.toNat_ofNat]
    omega
  rw [State.addrPc, hpc, hahead, BitVec.add_comm, BitVec.sub_add_cancel]

/-- Settles O57: each form computes its address from the field as the encoder computed the field from the address. -/
theorem assembledLabelsAreReached : Obligations.AssembledLabelsAreReached := by
  intro ctx table name target s i htable hname hpc heven
  have hbranch {w : Nat} {f : BitVec w} := branchTarget_of_branchField htable hname hpc heven (f := f)
  have hliteral {f : BitVec 8} := addrPc_of_literalField htable hname hpc (f := f)
  refine ⟨fun c h hc => ?_, fun h => ?_, fun h => ?_, fun rd h => ?_, fun rt h => ?_⟩
  · obtain ⟨f, hf, rfl⟩ := (assemble_bcond ctx name c i).mp h
    exact ⟨_, exec_condBranch c f s, by rw [branchIf_of_passed hc, pc_writePC, hbranch (by decide) hf]⟩
  · obtain ⟨f, hf, rfl⟩ := (assemble_b ctx name i).mp h
    exact ⟨_, rfl, by rw [pc_writePC, hbranch (by decide) hf]⟩
  · obtain ⟨f, hf, rfl⟩ := (assemble_bl ctx name i).mp h
    exact ⟨_, exec_blOf f s, by rw [pc_writePC, hbranch (by decide) hf]⟩
  · obtain ⟨f, hf, rfl⟩ := (assemble_enc1F_eq_ok rfl i).mp h
    exact ⟨_, rfl, by simp [hliteral hf]⟩
  · have hload : ∃ f, literalField ctx name = .ok f ∧ .ldrLit rt f = i :=
      h.elim (assemble_enc1F_eq_ok rfl i).mp (assemble_enc1F_eq_ok rfl i).mp
    obtain ⟨f, hf, rfl⟩ := hload
    rw [loadOf, hliteral hf]

end Sys2Proof.Machine
end

section
/-! PROOFS. What the encoder does with the site and the label table (R88): only the forms that declare that they need label
offsets read them, and those forms are reached only through a label or a literal. -/

namespace Sys2Proof.Machine

/-! ## The entries that read no label -/

section
variable (ctx : EncodeContext) (m : Mnemonic) (ops : List Operand)

/-- The entries are the same for every site and label table, and no form that needs label offsets is among them. -/
def labelFree : Prop :=
  (∀ ctx2, entries ctx2 m ops = entries ctx m ops) ∧ answersOnly (needsLabelOffsets · = false) (entries ctx m ops)

/-- The operands hold a label or a literal, and every form of the entries needs label offsets. -/
def labelled : Prop :=
  (∃ name, .label name ∈ ops ∨ .literal name ∈ ops) ∧ answersOnly (needsLabelOffsets · = true) (entries ctx m ops)

/-- The mnemonics with an entry that takes a label (R84, R88). -/
def takesLabel : Mnemonic → Bool
  | .ldr | .adr | .bcond _ | .bhs | .blo | .b | .bl => true
  | _ => false

theorem labelFree_of_not_takesLabel (hm : takesLabel m = false) : labelFree ctx m ops := by
  refine ⟨fun ctx2 => ?_, ?_⟩
  · cases m
    case ldr | adr | bcond | bhs | blo | b | bl => cases hm
    all_goals rfl
  cases m
  case ldr | adr | bcond | bhs | blo | b | bl => cases hm
  case ands | eors | adcs | sbcs | rors | tst | cmn | orrs | bics | mvns => exact answersOnly_twoLow fun _ _ => rfl
  case lsls | lsrs | asrs => exact answersOnly_shiftForms (fun _ _ _ => rfl) fun _ _ => rfl
  case adds | subs => exact answersOnly_addForms (fun _ _ _ => rfl) (fun _ _ _ => rfl) fun _ _ => rfl
  case str => exact answersOnly_wordForms (fun _ _ _ => rfl) (fun _ _ _ => rfl) fun _ _ => rfl
  case strh | strb | ldrh | ldrb => exact answersOnly_memoryForms (fun _ _ _ => rfl) fun _ _ _ => rfl
  case sub => exact answersOnly_spAdjustForms fun _ => rfl
  all_goals simp only [entries]
  case movs =>
    split
    · exact answersOnly_enc2 fun _ _ => rfl
    · exact answersOnly_enc1F fun _ _ => rfl
    · exact answersOnly_nil
  case cmp =>
    split
    · exact answersOnly_enc1F fun _ _ => rfl
    · exact answersOnly_cons (answersOnly_enc2 fun _ _ => rfl) (answersOnly_ok rfl)
    · exact answersOnly_nil
  case muls =>
    split
    · split
      · exact answersOnly_enc2 fun _ _ => rfl
      · exact answersOnly_nil
    · exact answersOnly_enc2 fun _ _ => rfl
    · exact answersOnly_nil
  case add =>
    split
    · exact answersOnly_ok rfl
    · split
      · exact answersOnly_spAdjustForms fun _ => rfl
      · split
        · exact answersOnly_enc1F fun _ _ => rfl
        · exact answersOnly_nil
    · exact answersOnly_spAdjustForms fun _ => rfl
  case rsbs =>
    split
    · exact answersOnly_enc2F fun _ _ _ => rfl
    · exact answersOnly_nil
  case push | pop =>
    split
    · exact answersOnly_map fun _ _ => rfl
    · exact answersOnly_nil
  case mov | bx | blx =>
    split
    · exact answersOnly_ok rfl
    · exact answersOnly_nil
  case ldrsb | ldrsh =>
    split
    · exact answersOnly_enc3 fun _ _ _ => rfl
    · exact answersOnly_nil

/-! ## The entries that read a label -/

/-- A mnemonic has no entry for these operands. -/
theorem labelFree_of_no_entry (h : ∀ ctx2, entries ctx2 m ops = []) : labelFree ctx m ops := by
  refine ⟨fun ctx2 => ?_, ?_⟩
  · rw [h, h]
  · rw [h]
    exact answersOnly_nil

/-- A form that reads the site or the label table is reached only through a label or a literal. -/
theorem labelFree_or_labelled : labelFree ctx m ops ∨ labelled ctx m ops := by
  by_cases hm : takesLabel m = false
  · exact .inl (labelFree_of_not_takesLabel ctx m ops hm)
  by_cases hops : ∃ name, .label name ∈ ops ∨ .literal name ∈ ops
  · cases m
    case bcond c =>
      refine .inr ⟨hops, ?_⟩
      simp only [entries]
      split
      · exact answersOnly_map fun _ _ => by cases c <;> rfl
      · exact answersOnly_nil
    case bhs | blo | b | bl =>
      refine .inr ⟨hops, ?_⟩
      simp only [entries]
      split
      · exact answersOnly_map fun _ _ => rfl
      · exact answersOnly_nil
    case adr =>
      refine .inr ⟨hops, ?_⟩
      simp only [entries]
      split
      · exact answersOnly_enc1F fun _ _ => rfl
      · exact answersOnly_nil
    case ldr =>
      refine .inr ⟨hops, ?_⟩
      simp only [entries]
      split
      · exact answersOnly_enc1F fun _ _ => rfl
      · exact answersOnly_enc1F fun _ _ => rfl
      · unfold wordForms memoryForms
        split
        · simp at hops
        · split
          · simp at hops
          · simp at hops
          · exact answersOnly_nil
    all_goals exact absurd rfl hm
  · left
    cases m
    case bcond | bhs | blo | b | bl | adr =>
      refine labelFree_of_no_entry ctx _ ops fun ctx2 => ?_
      simp only [entries]
      split
      · simp at hops
      · rfl
    case ldr =>
      have hword : ∀ ctx2, entries ctx2 .ldr ops = wordForms ops .ldrReg .ldrImm .ldrSp := fun ctx2 => by
        simp only [entries]
        split
        · simp at hops
        · simp at hops
        · rfl
      refine ⟨fun ctx2 => by rw [hword, hword], ?_⟩
      rw [hword]
      exact answersOnly_wordForms (fun _ _ _ => rfl) (fun _ _ _ => rfl) fun _ _ => rfl
    all_goals exact absurd rfl hm

end

/-! ## What assembles -/

/-- The words of an instruction decode to one with the same words and the same effect: itself, or for a left shift by 0 the
move whose word that is (R74, R184). -/
theorem decode_encode_same_effect (i : Instr) :
    ∃ j, decode (encode i) = .ok j ∧ encode j = encode i ∧ ∀ s, exec j s = exec i s := by
  cases hwf : i.wf with
  | true => exact ⟨i, (hasWord_encode i hwf).2, rfl, fun _ => rfl⟩
  | false =>
    obtain ⟨rd, rm, rfl⟩ := eq_lslsImm_of_not_wf hwf
    refine ⟨.movsReg rd rm, ?_, (encode_lslsImm_zero rd rm).symm, fun s => (execLslsImm_zero rd rm s).symm⟩
    rw [encode_lslsImm_zero]
    exact (hasWord_encode (.movsReg rd rm) rfl).2

/-- Settles O58: the round trip of the words, and the entries that read a label. -/
theorem assembledDecodes : Obligations.AssembledDecodes := by
  intro ctx m ops i h
  refine ⟨⟨encodable_of_assemble h, decode_encode_same_effect i⟩, ?_⟩
  rw [assemble_eq_ok] at h
  obtain ⟨hsame, hanswers⟩ | ⟨hname, hanswers⟩ := labelFree_or_labelled ctx m ops
  · refine ⟨fun _ ctx2 => ?_, fun hi => ?_⟩
    · rwa [assemble_eq_ok, hsame]
    · rw [hanswers i (mem_of_firstOk h)] at hi
      cases hi
  · refine ⟨fun hi => ?_, fun _ => hname⟩
    rw [hanswers i (mem_of_firstOk h)] at hi
    cases hi

end Sys2Proof.Machine
end

section
/-! PROOFS. The instruction errors (R79, R80, R82, R89): operands of no entry, by what is wrong with them, and the encoder from
strings. -/

namespace Sys2Proof.Machine

/-! ## Operands of no entry -/

section
variable (ctx : EncodeContext) (m : Mnemonic) (ops : List Operand)

/-- Operands of no entry are refused with their context (R79, R89). -/
theorem assemble_of_no_entry (h : entries ctx m ops = []) :
    assemble ctx m ops = .error ⟨errorKind m ops [], m, ops⟩ := by
  rw [assemble, h]
  rfl

/-- A count of operands that no entry has (R80). -/
theorem assemble_of_count (h : ops.length ∉ operandCounts m) : assemble ctx m ops = .error ⟨.operandCount, m, ops⟩ := by
  have hnone : entries ctx m ops = [] := by
    by_contra hne
    exact h (entries_length ctx m ops hne)
  have hkind : errorKind m ops [] = .operandCount := if_pos h
  rw [assemble_of_no_entry ctx m ops hnone, hkind]

/-- A number without its `#` (R82). -/
theorem assemble_of_lacksHash (hcount : ops.length ∈ operandCounts m) (h : ops.any Operand.lacksHash = true) :
    assemble ctx m ops = .error ⟨.malformed, m, ops⟩ := by
  have hnone : entries ctx m ops = [] := by
    by_contra hne
    rw [entries_hash ctx m ops hne] at h
    cases h
  rw [assemble_of_no_entry ctx m ops hnone]
  simp [errorKind, hcount, h]

end

/-! ## Reading the operands -/

theorem mapM_option_of_map_eq {α β : Type} (f : α → Option β) (l : List α) (r : List β) (h : l.map f = r.map some) :
    l.mapM f = some r := by
  induction l generalizing r with
  | nil =>
    obtain rfl := List.map_eq_nil_iff.mp h.symm
    rfl
  | cons a l ih =>
    cases r with
    | nil => cases h
    | cons b r =>
      obtain ⟨ha, hl⟩ := List.cons.inj h
      simp [List.mapM_cons, ha, ih r hl]

theorem mapM_option_eq_none {α β : Type} (f : α → Option β) (l : List α) (h : ∃ a ∈ l, f a = none) : l.mapM f = none := by
  induction l with
  | nil => simp at h
  | cons a l ih =>
    obtain ha | hl := (List.exists_mem_cons_iff _ a l).mp h
    · simp [List.mapM_cons, ha]
    · cases f a <;> simp [List.mapM_cons, ih hl]

/-! ## The encoder from strings -/

section
variable (ctx : EncodeContext) (name : String) (texts : List String)

/-- Every error of the encoder from strings carries the name and the strings (R89). -/
theorem encodeText_error (e : InstructionError) (h : encodeText ctx name texts = .error e) :
    e.mnemonic = name ∧ e.operands = texts := by
  unfold encodeText at h
  split at h
  next =>
    cases h
    exact ⟨rfl, rfl⟩
  next m _ =>
    split at h
    next =>
      cases h
      exact ⟨rfl, rfl⟩
    next =>
      split at h
      next =>
        cases h
        exact ⟨rfl, rfl⟩
      next ops _ =>
        split at h
        next => cases h
        next =>
          cases h
          exact ⟨rfl, rfl⟩

variable {m : Mnemonic} (hm : readMnemonic name = some m)
include hm

theorem encodeText_of_count (h : texts.length ∉ operandCounts m) :
    encodeText ctx name texts = .error ⟨.operandCount, name, texts⟩ := by
  simp [encodeText, hm, h]

theorem encodeText_of_unreadable (hcount : texts.length ∈ operandCounts m) (h : ∃ text ∈ texts, readOperand text = none) :
    encodeText ctx name texts = .error ⟨.malformed, name, texts⟩ := by
  simp [encodeText, hm, hcount, mapM_option_eq_none readOperand texts h]

/-- Strings that can be read encode as the operands read (R78). -/
theorem encodeText_eq_ok (ops : List Operand) (h : texts.map readOperand = ops.map some) (op : Opcode) :
    encodeText ctx name texts = .ok op ↔ assembleOpcode ctx m ops = .ok op := by
  by_cases hcount : texts.length ∈ operandCounts m
  · rw [encodeText_read ctx name texts m ops hm hcount (mapM_option_of_map_eq readOperand texts ops h)]
    cases assembleOpcode ctx m ops <;> simp [Except.mapError]
  · have hlength : texts.length = ops.length := by simpa using congrArg List.length h
    rw [encodeText_of_count ctx name texts hm hcount, assembleOpcode, assemble_of_count ctx m ops (hlength ▸ hcount)]
    simp [Except.map]

end

/-- Settles O60: the errors of operands without an entry, and the checks of the strings in their order. -/
theorem instructionErrors : Obligations.InstructionErrors := by
  refine ⟨fun ctx m ops e h => ?_, assemble_of_count, fun ctx m ops hcount h => ?_, encodeText_error,
    fun ctx name texts h => ?_, fun ctx name texts m hm => ⟨encodeText_of_count ctx name texts hm,
      encodeText_of_unreadable ctx name texts hm, encodeText_eq_ok ctx name texts hm⟩⟩
  · obtain ⟨i, -, hok⟩ | ⟨-, herror⟩ := assemble_cases ctx m ops
    · rw [hok] at h
      cases h
    · rw [herror] at h
      cases h
      exact ⟨rfl, rfl⟩
  · refine assemble_of_lacksHash ctx m ops hcount (List.any_eq_true.mpr ?_)
    obtain ⟨v, hv⟩ | ⟨b, v, hv⟩ := h
    · exact ⟨_, hv, rfl⟩
    · exact ⟨_, hv, rfl⟩
  · simp [encodeText, h]

end Sys2Proof.Machine
end

section
/-! PROOFS. The operand checks of the encoder (R81 to R83, R86, R88, R92): what a form of one entry answers, by its registers and
its other field, and the register lists. -/

namespace Sys2Proof.Machine

/-! ## The registers of a form -/

section
variable {α : Type} (r q o : RegNum) (x : Except EncodeErrorKind α)

/-- A 3-bit field takes a register or refuses its class (R81). -/
theorem lowField_eq_lowOf : lowField r = if 8 ≤ r.toNat then .error .registerClass else .ok (lowOf r) := lowField_eq r

theorem enc2_eq (f : LowReg → LowReg → Instr) :
    enc2 r q f = if ∃ p ∈ [r, q], 8 ≤ p.toNat then .error .registerClass else .ok (f (lowOf r) (lowOf q)) := by
  simp only [enc2, lowField_eq_lowOf, List.exists_mem_cons_iff, List.not_mem_nil, false_and, exists_false, or_false]
  by_cases hr : 8 ≤ r.toNat <;> by_cases hq : 8 ≤ q.toNat <;> simp [hr, hq]

theorem enc3_eq (f : LowReg → LowReg → LowReg → Instr) :
    enc3 r q o f =
      if ∃ p ∈ [r, q, o], 8 ≤ p.toNat then .error .registerClass else .ok (f (lowOf r) (lowOf q) (lowOf o)) := by
  simp only [enc3, lowField_eq_lowOf, List.exists_mem_cons_iff, List.not_mem_nil, false_and, exists_false, or_false]
  by_cases hr : 8 ≤ r.toNat <;> by_cases hq : 8 ≤ q.toNat <;> by_cases ho : 8 ≤ o.toNat <;> simp [hr, hq, ho]

theorem enc1F_eq (f : LowReg → α → Instr) :
    enc1F r x f = if ∃ p ∈ [r], 8 ≤ p.toNat then .error .registerClass else x.map (f (lowOf r)) := by
  simp only [enc1F, lowField_eq_lowOf, List.exists_mem_cons_iff, List.not_mem_nil, false_and, exists_false, or_false]
  by_cases hr : 8 ≤ r.toNat <;> cases x <;> simp [hr, Except.map]

theorem enc2F_eq (f : LowReg → LowReg → α → Instr) :
    enc2F r q x f = if ∃ p ∈ [r, q], 8 ≤ p.toNat then .error .registerClass else x.map (f (lowOf r) (lowOf q)) := by
  simp only [enc2F, lowField_eq_lowOf, List.exists_mem_cons_iff, List.not_mem_nil, false_and, exists_false, or_false]
  by_cases hr : 8 ≤ r.toNat <;> by_cases hq : 8 ≤ q.toNat <;> cases x <;> simp [hr, hq, Except.map]

end

section
variable {ctx : EncodeContext} {m : Mnemonic} {ops : List Operand}

theorem encodesRegisters_of_single {fields : List RegNum} {i : Instr}
    (h : entries ctx m ops = [if ∃ r ∈ fields, 8 ≤ r.toNat then .error .registerClass else .ok i]) :
    encodesRegisters ctx m ops fields i := by
  rw [encodesRegisters, assemble_of_single h]
  split <;> rfl

variable {α : Type} {r q o : RegNum} {x : Except EncodeErrorKind α} {b : α}

theorem encodesRegisters_enc2 {f : LowReg → LowReg → Instr} (h : entries ctx m ops = [enc2 r q f]) :
    encodesRegisters ctx m ops [r, q] (f (lowOf r) (lowOf q)) :=
  encodesRegisters_of_single (by rw [h, enc2_eq])

theorem encodesRegisters_enc3 {f : LowReg → LowReg → LowReg → Instr} (h : entries ctx m ops = [enc3 r q o f]) :
    encodesRegisters ctx m ops [r, q, o] (f (lowOf r) (lowOf q) (lowOf o)) :=
  encodesRegisters_of_single (by rw [h, enc3_eq])

theorem encodesRegisters_enc1F {f : LowReg → α → Instr} (hx : x = .ok b) (h : entries ctx m ops = [enc1F r x f]) :
    encodesRegisters ctx m ops [r] (f (lowOf r) b) :=
  encodesRegisters_of_single (by rw [h, enc1F_eq, hx]; rfl)

/-! ## The value of a form -/

/-- The checks of a value: a multiple of the scale, then in the range (R82, R83). -/
def checkedValue (scale least most v : Int) (b : α) : Except EncodeErrorKind α :=
  if v % scale ≠ 0 then .error .immediateNotAligned
  else if least ≤ v ∧ v ≤ most then .ok b
  else .error .immediateTooWide

variable {scale least most v : Int}

theorem checkedValue_map {β : Type} (f : α → β) :
    (checkedValue scale least most v b).map f = checkedValue scale least most v (f b) := by
  unfold checkedValue
  split
  · rfl
  · split <;> rfl

theorem checkedValue_one (b : α) : checkedValue 1 least most v b =
    if least ≤ v ∧ v ≤ most then .ok b else .error .immediateTooWide := by
  simp [checkedValue]

theorem scaledField_checked (w n : Nat) (v most : Int) (hn : 0 < n) (hmost : (n : Int) * (2 ^ w - 1) = most) :
    scaledField w n v = checkedValue n 0 most v (BitVec.ofInt w (v / n)) := by
  rw [scaledField_eq w n v hn, hmost, checkedValue]

theorem scaledField_one_checked (w : Nat) (v most : Int) (hmost : (2 : Int) ^ w - 1 = most) :
    scaledField w 1 v = checkedValue 1 0 most v (BitVec.ofInt w v) := by
  rw [scaledField_one, hmost, checkedValue_one]

/-- The amount of LSRS and ASRS is 1 to 32, with 32 stored as 0 (R185, R186). -/
theorem shiftField_checked (v : Int) : shiftField v = checkedValue 1 1 32 v (BitVec.ofInt 5 v) := by
  rw [checkedValue_one]
  by_cases h32 : v = 32
  · subst h32
    rfl
  · by_cases h0 : v = 0
    · subst h0
      rfl
    · rw [shiftField, if_neg h32, if_neg h0, scaledField_one]
      refine if_congr ?_ rfl rfl
      omega

/-- RSBS takes the immediate 0 only (R138). -/
theorem rsbsField_checked (v : Int) :
    (if v = 0 then .ok () else .error .immediateTooWide) = checkedValue 1 0 0 v () := by
  rw [checkedValue_one]
  refine if_congr ?_ rfl rfl
  omega

theorem encodesImmediate_of_single {fields : List RegNum} {i : Instr}
    (h : entries ctx m ops =
      [if ∃ r ∈ fields, 8 ≤ r.toNat then .error .registerClass else checkedValue scale least most v i]) :
    encodesImmediate ctx m ops fields scale least most v i := by
  rw [encodesImmediate, assemble_of_single h, checkedValue]
  split_ifs <;> rfl

theorem encodesImmediate_enc1F {f : LowReg → α → Instr} (hx : x = checkedValue scale least most v b)
    (h : entries ctx m ops = [enc1F r x f]) : encodesImmediate ctx m ops [r] scale least most v (f (lowOf r) b) :=
  encodesImmediate_of_single (by rw [h, enc1F_eq, hx, checkedValue_map])

theorem encodesImmediate_enc2F {f : LowReg → LowReg → α → Instr} (hx : x = checkedValue scale least most v b)
    (h : entries ctx m ops = [enc2F r q x f]) :
    encodesImmediate ctx m ops [r, q] scale least most v (f (lowOf r) (lowOf q) b) :=
  encodesImmediate_of_single (by rw [h, enc2F_eq, hx, checkedValue_map])

theorem encodesImmediate_map {f : α → Instr} (hx : x = checkedValue scale least most v b)
    (h : entries ctx m ops = [x.map f]) : encodesImmediate ctx m ops [] scale least most v (f b) :=
  encodesImmediate_of_single (by rw [h, hx, checkedValue_map]; simp)

end

/-! ## The forms of two entries -/

/-- CMP takes the form of two low registers where both are low, and otherwise the high form (R79, R141). -/
theorem assemble_cmp (ctx : EncodeContext) (n m : RegNum) : assemble ctx .cmp [.reg n, .reg m] =
    .ok (if n.toNat < 8 ∧ m.toNat < 8 then .cmpReg (lowOf n) (lowOf m) else .cmpHi n m) := by
  have hentries : entries ctx .cmp [.reg n, .reg m] = [enc2 n m .cmpReg, .ok (.cmpHi n m)] := rfl
  rw [assemble_eq_ok, hentries, enc2_eq]
  simp only [List.exists_mem_cons_iff, List.not_mem_nil, false_and, exists_false, or_false]
  by_cases hlow : n.toNat < 8 ∧ m.toNat < 8
  · rw [if_neg (by omega), if_pos hlow]
    rfl
  · rw [if_pos (by omega), if_neg hlow]
    rfl

/-- ADDS and SUBS of a register and itself take the 3-bit form where the immediate fits it, and otherwise the 8-bit form
(R79, R92). -/
theorem encodesImmediate_addForms {ctx : EncodeContext} {m : Mnemonic} {ops : List Operand} {d : RegNum} {v : Int}
    {f : LowReg → LowReg → BitVec 3 → Instr} {g : LowReg → BitVec 8 → Instr}
    (h : entries ctx m ops = [enc2F d d (scaledField 3 1 v) f, enc1F d (scaledField 8 1 v) g]) :
    encodesImmediate ctx m ops [d] 1 0 255 v
      (if v ≤ 7 then f (lowOf d) (lowOf d) (BitVec.ofInt 3 v) else g (lowOf d) (BitVec.ofInt 8 v)) := by
  have hcount : ops.length ∈ operandCounts m := entries_length ctx m ops (by simp [h])
  rw [enc2F_eq, enc1F_eq, scaledField_one_checked 3 v 7 rfl, scaledField_one_checked 8 v 255 rfl, checkedValue_map,
    checkedValue_map, checkedValue_one, checkedValue_one] at h
  simp only [encodesImmediate, List.exists_mem_cons_iff, List.not_mem_nil, false_and, exists_false, or_false, or_self,
    Int.emod_one, ne_eq, not_true_eq_false, if_false] at h ⊢
  rw [assemble, h]
  by_cases hd : 8 ≤ d.toNat
  · simp [hd, firstOk, errorKind, hcount]
  · by_cases h7 : 0 ≤ v ∧ v ≤ 7
    · have h255 : 0 ≤ v ∧ v ≤ 255 := by omega
      obtain ⟨-, hmost⟩ := id h7
      rw [if_neg hd, if_neg hd, if_neg hd, if_pos h7, if_pos h255, if_pos h255, if_pos hmost]
      rfl
    · by_cases h255 : 0 ≤ v ∧ v ≤ 255
      · rw [if_neg hd, if_neg hd, if_neg hd, if_neg h7, if_pos h255, if_pos h255, if_neg (by omega)]
        rfl
      · simp [hd, h7, h255, firstOk, errorKind, hcount]

/-! ## Literal loads and ADR -/

theorem literalField_checked {ctx : EncodeContext} {table : List (String × Word)} {name : String} {target : Word}
    (htable : ctx.labels = some table) (hname : lookupLabel table name = .ok target) {ahead : Int}
    (hahead : ahead = (target - ((ctx.site + 4#32) >>> 2) <<< 2).toNat) :
    literalField ctx name = checkedValue 4 0 1020 ahead (BitVec.ofInt 8 (ahead / 4)) := by
  rw [hahead, ← align4_eq_shifts]
  simp only [literalField, htable, hname]
  exact scaledField_checked 8 4 _ 1020 (by decide) (by decide)

theorem literalField_none {ctx : EncodeContext} (h : ctx.labels = none) (name : String) : literalField ctx name = .ok 0 := by
  simp [literalField, h]

/-! ## Register lists -/

theorem range_regs_of_lt {a b : RegNum} (h : b.toNat < a.toNat) : ListItem.regs (.range a b) = .error .malformed :=
  if_neg (by omega)

/-- A range names the registers between its ends, each once (R86). -/
theorem range_regs_of_le {a b : RegNum} (h : a.toNat ≤ b.toNat) :
    ∃ rs, ListItem.regs (.range a b) = .ok rs ∧ rs.Nodup ∧ ∀ r, r ∈ rs ↔ a.toNat ≤ r.toNat ∧ r.toNat ≤ b.toNat := by
  have hb := b.isLt
  have hplace : ∀ k < b.toNat - a.toNat + 1, (a + BitVec.ofNat 4 k).toNat = a.toNat + k := fun k hk => by
    rw [BitVec.toNat_add, BitVec.toNat_ofNat]
    omega
  refine ⟨_, if_pos h, ?_, fun r => ?_⟩
  · refine List.Nodup.map_on (fun j hj k hk hjk => ?_) List.nodup_range
    have hnat := congrArg BitVec.toNat hjk
    rw [hplace j (List.mem_range.mp hj), hplace k (List.mem_range.mp hk)] at hnat
    omega
  · simp only [List.mem_map, List.mem_range]
    constructor
    · rintro ⟨k, hk, rfl⟩
      rw [hplace k hk]
      omega
    · rintro ⟨hleast, hmost⟩
      refine ⟨r.toNat - a.toNat, by omega, BitVec.eq_of_toNat_eq ?_⟩
      rw [hplace _ (by omega)]
      omega

/-- The list field of the registers of a list: its bits and the extra bit (R86). -/
def fieldOf (extra : RegNum) (rs : List RegNum) : Bool × BitVec 8 :=
  (rs.contains extra, (rs.filter fun r => r.toNat < 8).foldl (fun l r => setBit l r.toNat) 0#8)

theorem fieldOf_bit (extra : RegNum) (rs : List RegNum) (q : LowReg) :
    (fieldOf extra rs).2.getLsbD q.toNat = true ↔ low q ∈ rs := by
  have hlow : (low q).toNat = q.toNat := by revert q; decide
  have hq := q.isLt
  rw [fieldOf, foldl_setBit_getLsbD _ _ (by simp)]
  simp only [BitVec.getLsbD_zero, Bool.false_eq_true, false_or, List.mem_filter, decide_eq_true_eq]
  constructor
  · rintro ⟨r, ⟨hr, -⟩, hrq⟩
    rwa [← BitVec.eq_of_toNat_eq (hrq.trans hlow.symm)]
  · exact fun h => ⟨low q, ⟨h, by omega⟩, hlow⟩

section
variable {extra : RegNum} {items : List ListItem} {rs : List RegNum} (hrs : listRegs items = .ok rs)
include hrs

/-- The lists that PUSH and POP take, and their fields (R86, R230). -/
theorem listField_eq_ok (p : Bool × BitVec 8) : listField extra items = .ok p ↔
    (rs ≠ [] ∧ rs.Nodup ∧ ∀ r ∈ rs, r.toNat < 8 ∨ r = extra) ∧ fieldOf extra rs = p := by
  have hall : (rs.all fun r => r.toNat < 8 || r == extra) = true ↔ ∀ r ∈ rs, r.toNat < 8 ∨ r = extra := by simp
  simp only [listField, hrs]
  split_ifs with hempty hdup hregs
  · simp [hempty]
  · rw [hall] at hregs
    exact ⟨fun h => ⟨⟨hempty, hdup, hregs⟩, Except.ok.inj h⟩, fun h => congrArg Except.ok h.2⟩
  · rw [hall] at hregs
    simp [hregs]
  · simp [hdup]

theorem listField_of_duplicate (hdup : ¬ rs.Nodup) : listField extra items = .error .duplicateRegister := by
  have hempty : rs ≠ [] := by
    rintro rfl
    exact hdup List.nodup_nil
  simp [listField, hrs, hempty, hdup]

variable {ctx : EncodeContext} {m : Mnemonic} {form : Bool → BitVec 8 → Instr}
  (h : entries ctx m [.list items] = [(listField extra items).map fun p => form p.1 p.2])
include h

theorem exists_assemble_list : (∃ i, assemble ctx m [.list items] = .ok i) ↔
    rs ≠ [] ∧ rs.Nodup ∧ ∀ r ∈ rs, r.toNat < 8 ∨ r = extra := by
  rw [exists_assemble_iff (assemble_map_eq_ok h)]
  simp only [listField_eq_ok hrs, exists_and_left, exists_eq', and_true]

theorem assemble_list_fields (i : Instr) (hi : assemble ctx m [.list items] = .ok i) :
    ∃ p list, i = form p list ∧ (p = true ↔ extra ∈ rs) ∧ ∀ q : LowReg, list.getLsbD q.toNat = true ↔ low q ∈ rs := by
  obtain ⟨p, hp, rfl⟩ := (assemble_map_eq_ok h i).mp hi
  obtain ⟨-, rfl⟩ := (listField_eq_ok hrs p).mp hp
  exact ⟨_, _, rfl, by simp [fieldOf], fieldOf_bit extra rs⟩

theorem assemble_list_duplicate (hdup : ¬ rs.Nodup) :
    assemble ctx m [.list items] = .error ⟨.duplicateRegister, m, [.list items]⟩ := by
  rw [assemble_of_single h, listField_of_duplicate hrs hdup]
  rfl

end

/-! ## The checks, form by form -/

/-- The forms whose fields are registers (R73, R81). -/
theorem registerForms (ctx : EncodeContext) (d n m : RegNum) :
    (∀ p ∈ [(Mnemonic.adds, Instr.addsReg), (.subs, .subsReg)],
      encodesRegisters ctx p.1 [.reg d, .reg n, .reg m] [d, n, m] (p.2 (lowOf d) (lowOf n) (lowOf m))) ∧
    (∀ p ∈ [(Mnemonic.ldr, Instr.ldrReg), (.str, .strReg), (.ldrh, .ldrhReg), (.strh, .strhReg), (.ldrb, .ldrbReg),
        (.strb, .strbReg), (.ldrsb, .ldrsbReg), (.ldrsh, .ldrshReg)],
      encodesRegisters ctx p.1 [.reg d, .memReg n m] [d, n, m] (p.2 (lowOf d) (lowOf n) (lowOf m))) ∧
    (∀ p ∈ [(Mnemonic.movs, Instr.movsReg), (.lsls, .lslsReg), (.lsrs, .lsrsReg), (.asrs, .asrsReg), (.rors, .rors),
        (.ands, .ands), (.eors, .eors), (.orrs, .orrs), (.bics, .bics), (.mvns, .mvns), (.tst, .tst), (.adcs, .adcs),
        (.sbcs, .sbcs), (.cmn, .cmn), (.muls, .muls)],
      encodesRegisters ctx p.1 [.reg d, .reg m] [d, m] (p.2 (lowOf d) (lowOf m))) := by
  refine ⟨fun p hp => ?_, fun p hp => ?_, fun p hp => ?_⟩
  · fin_cases hp <;> exact encodesRegisters_enc3 rfl
  · fin_cases hp <;> exact encodesRegisters_enc3 rfl
  · fin_cases hp <;> exact encodesRegisters_enc2 rfl

/-- Settles O59: each form is one entry, or two where an 8-bit or a high form stands behind the first, so that its registers
decide and then its other field. -/
theorem operandChecks : Obligations.OperandChecks := by
  refine ⟨fun ctx d n m => ?_, fun ctx d n v => ?_, fun ctx table name target d htable hname => ?_, fun ctx name d h => ?_,
    fun a b => ⟨range_regs_of_lt, range_regs_of_le⟩, fun ctx items rs hrs => ?_⟩
  · obtain ⟨hadd, hmemory, htwo⟩ := registerForms ctx d n m
    have hmuls : entries ctx .muls [.reg d, .reg n, .reg d] = [enc2 d n .muls] := if_pos rfl
    exact ⟨hadd, hmemory, htwo, encodesRegisters_enc2 hmuls, assemble_cmp ctx n m, rfl, rfl, rfl, rfl⟩
  · refine ⟨fun hn p hp => ?_, fun p hp => ?_, fun p hp => ?_, fun p hp => ?_, fun hd => ?_, fun p hp => ?_, fun p hp => ?_,
      fun p hp => ?_, ?_, fun p hp => ?_, ?_⟩
    · have hx := scaledField_checked 5 4 v 124 (by decide) (by decide)
      fin_cases hp <;> exact encodesImmediate_enc2F hx (if_neg hn)
    · have hx := scaledField_checked 5 2 v 62 (by decide) (by decide)
      fin_cases hp <;> exact encodesImmediate_enc2F hx rfl
    · have hx := scaledField_one_checked 5 v 31 rfl
      fin_cases hp <;> exact encodesImmediate_enc2F hx rfl
    · have hx := scaledField_checked 8 4 v 1020 (by decide) (by decide)
      fin_cases hp <;> exact encodesImmediate_enc1F hx rfl
    · exact encodesImmediate_enc1F (scaledField_checked 8 4 v 1020 (by decide) (by decide)) ((if_neg hd).trans rfl)
    · have hx := scaledField_checked 7 4 v 508 (by decide) (by decide)
      fin_cases hp <;> exact ⟨encodesImmediate_map hx rfl, encodesImmediate_map hx rfl⟩
    · have hx := scaledField_one_checked 8 v 255 rfl
      fin_cases hp <;> exact encodesImmediate_enc1F hx rfl
    · have hx := scaledField_one_checked 3 v 7 rfl
      have hone {l : List (Except EncodeErrorKind Instr)} (hd : d ≠ n) (e : Except EncodeErrorKind Instr) :
          (e :: if d = n then l else []) = [e] := by rw [if_neg hd]
      have htwo {l : List (Except EncodeErrorKind Instr)} (e : Except EncodeErrorKind Instr) :
          (e :: if d = d then l else []) = e :: l := by rw [if_pos rfl]
      fin_cases hp <;> exact ⟨fun hd => encodesImmediate_enc2F hx (hone hd _), encodesImmediate_addForms (htwo _)⟩
    · exact encodesImmediate_enc2F (scaledField_one_checked 5 v 31 rfl) rfl
    · fin_cases hp <;> exact encodesImmediate_enc2F (shiftField_checked v) rfl
    · exact encodesImmediate_enc2F (f := fun a b _ => .rsbs a b) (rsbsField_checked v) rfl
  · have hx := literalField_checked htable hname rfl
    exact ⟨encodesImmediate_enc1F hx rfl, encodesImmediate_enc1F hx rfl, encodesImmediate_enc1F hx rfl⟩
  · have hx := literalField_none h name
    exact ⟨encodesRegisters_enc1F hx rfl, encodesRegisters_enc1F hx rfl⟩
  · refine ⟨exists_assemble_list hrs rfl, exists_assemble_list hrs rfl, assemble_list_fields hrs rfl,
      assemble_list_fields hrs rfl, fun m hm hdup => ?_⟩
    fin_cases hm
    · exact assemble_list_duplicate (extra := LR) (form := .push) hrs rfl hdup
    · exact assemble_list_duplicate (extra := PC) (form := .pop) hrs rfl hdup

end Sys2Proof.Machine
end
